-- ==== Sys2Proof/Word.lean ====
section
/-! DEFINITION. The two word widths of the engine (10_state.md R20, R9): bytes, and the 16-bit counters. -/

namespace Sys2Proof

/-- A byte (R9): stream bytes, `prev`, `len_b0`, `xor_acc`. -/
abbrev Byte := BitVec 8

/-- A 16-bit register (R20): `len`, `pos`, the two timers, `drain_cnt`. -/
abbrev Half := BitVec 16

end Sys2Proof
end

