-- ==== Sys2Proof/Config.lean ====
section
/-! DEFINITION. What an implementation fixes (the parameter record of 00_scope.md R5), the values of the input ports at
one clock edge (10_state.md R34), and the free values: constants without a body, so that nothing can be proved of them. -/

namespace Sys2Proof

/-- The implementation parameters of one engine, "all fixed before the engine runs" (R5). Raw data: which records are
legal is `Params.legal` (R6). -/
structure Params where
  /-- `TOTAL_PIXELS` -/
  totalPixels : Nat
  /-- `OFFSET_PIXELS` -/
  offsetPixels : Nat
  /-- `COUNT_PIXELS` -/
  countPixels : Nat
  /-- `MARKER1` -/
  marker1 : Byte
  /-- `MARKER2` -/
  marker2 : Byte
  /-- `LEN_BIG_ENDIAN`; false means little-endian -/
  lenBigEndian : Bool
  /-- `CSUM_EN` -/
  csumEn : Bool
  /-- `BYTE_TIMEOUT`, in ticks -/
  byteTimeout : Nat
  /-- `FRAME_TIMEOUT`, in ticks -/
  frameTimeout : Nat
  /-- `TICK_PERIOD`; "not used by any rule" (R5), and read by none here (DESIGN CHOICE, log 14) -/
  tickPeriod : Nat
  /-- `DRAIN_EN`; true is policy (a) drain, false is policy (b) abandon -/
  drainEn : Bool
  /-- `DRAIN_CAP` -/
  drainCap : Nat
deriving DecidableEq, Repr

/-- The default of `DRAIN_CAP`, `3 * TOTAL_PIXELS` (R5, D14). -/
def Params.defaultDrainCap (totalPixels : Nat) : Nat := 3 * totalPixels

/-- The input ports as sampled at one rising clock edge (R34, R176). `seg_rd_addr` is not sampled: it addresses the
combinational read port (R37) and is an argument of that port's function. -/
structure PortInputs where
  rst : Bool := false
  tick : Bool := false
  rxValid : Bool := false
  rxData : Byte := 0
  sinkDone : Bool := false
deriving DecidableEq, Repr, Inhabited

namespace Config

/-- The parameter record of `State.reset`: configuration DR of 95_test_vectors.md section 1, with its `DRAIN_CAP` at the
default of R5. DESIGN CHOICE (log 2): every value is OPEN in R5. No statement rests on it but that
`State.reset` meets the invariants. -/
def referenceParams : Params where
  totalPixels := 4
  offsetPixels := 1
  countPixels := 2
  marker1 := 0xAA
  marker2 := 0x55
  lenBigEndian := false
  csumEn := true
  byteTimeout := 3
  frameTimeout := 10
  tickPeriod := 1
  drainEn := true
  drainCap := Params.defaultDrainCap 4

/-- FREE VALUE (log 4): what the environment puts on the input ports at clock edge number `n` once the stimulus placed
in State has ended. R13 lets every party do anything its row allows, and its duties are not assumed here: they are
`Environment.SinkAnswers` and the definitions beside it in Safety.lean, for claims to assume (R231; log 19). DESIGN CHOICE: the
value depends on `n` alone, so two engines whose stimulus has ended sample the same inputs at the same number, though each has
its own collaborators (R204). -/
opaque laterInputs : Nat → PortInputs

/-- FREE VALUE (log 6): the byte the read port shows at address `a` of `seg` while nothing has been written there since
power-up (R222, U1). DESIGN CHOICE: it depends on `a` alone, so two engines show the same unknown byte, though each has contents
of its own (R204). -/
opaque powerUpSeg : Nat → Byte

/-- FREE VALUE (log 7): `seg_rd_data` at clock `n` for the index `a >= COUNT_PIXELS` (R37, U3).
DESIGN CHOICE: two engines show the same value at the same `n` and `a` (R204). -/
opaque segReadOutOfRange : (n : Nat) → (a : Nat) → BitVec 24

end Config

end Sys2Proof
end

