-- ==== Sys2Proof/Machine/State.lean ====
section
/-! DEFINITION. The state of one engine (10_state.md R20), as plain data, its value after reset (70_reset_and_hazards.md
R220), and the reasons a step can stop. -/

namespace Sys2Proof.Machine

/-- The control states (R21). There is no eighth value: code 7 is "never taken". -/
inductive Control where
  | hunting
  | synced
  | lenPending
  | bodyPending
  | checksumPending
  | valid
  | draining
deriving DecidableEq, Repr

/-- The four failure kinds (60_exceptions.md R190). -/
inductive FailureKind where
  | headerMismatch
  | readTimeout
  | payloadTimeout
  | checksumMismatch
deriving DecidableEq, Repr

/-- The three values of the predicate `win` (10_state.md R38): what SegmentExtractor does with a payload byte. -/
inductive Window where
  | skip
  | take
  | drop
deriving DecidableEq, Repr

/-- The contents of a byte buffer: the bytes written since power-up, addresses strictly rising. An unlisted address has
no value: nothing has written it (R222, U1, U2; DESIGN CHOICE, log 6). -/
abbrev Memory := List Host.Cell

/-- The complete state of one engine (R20), then the model's own fields. -/
structure State where
  /-- `state`, the control state (R21) -/
  state : Control
  /-- `prev_valid` (R24) -/
  prevValid : Bool
  /-- `prev` (R24) -/
  prev : Byte
  /-- `len_b0` (R25) -/
  lenB0 : Byte
  /-- `len` (R25) -/
  len : Half
  /-- `pos` (R23) -/
  pos : Half
  /-- `xor_acc` (R26) -/
  xorAcc : Byte
  /-- `byte_timer` (R27) -/
  byteTimer : Half
  /-- `frame_timer` (R28) -/
  frameTimer : Half
  /-- `drain_cnt` (R29) -/
  drainCnt : Half
  /-- `stage`, the staging buffer (R30) -/
  stage : Memory
  /-- `seg`, the PixelSegment (R31) -/
  seg : Memory
  /-- `err_valid` (R32) -/
  errValid : Bool
  /-- `err_code` (R32) -/
  errCode : BitVec 2
  /-- The model's own: the engine's parameters, constant (R5; DESIGN CHOICE, log 1). -/
  params : Params
  /-- The model's own: the input ports at the coming clock edges, the next edge first (R34, R95; DESIGN CHOICE, log 3). -/
  stimulus : List PortInputs
  /-- The model's own: how many clock edges have passed; it only indexes the free values (DESIGN CHOICE, log 5). -/
  clock : Nat
deriving DecidableEq, Repr

/-- The machine has no fault: "No behaviour of the engine is treated as `fault`" (93_implementation_defined.md
section 2). The type is empty, so no step can fault. -/
inductive Fault where
deriving DecidableEq, Repr

/-- Why the model gives no next state. -/
inductive Refusal where
  /-- Raised by `exec` for an instruction that has no meaning yet; no arm of this model raises it. Safe. -/
  | notModelled (mnemonic : String)
  /-- Raised by `step` on a parameter record that breaks R6: "the engine is not built and the model gives no step for
  it" (DEDUCED, log 8). Safe. -/
  | illegalParameters
  /-- Raised by `step` on a dispatch key that selects no operation (R94). No state produces one. Safe. -/
  | noOperation
  /-- Raised by a meaning run in a state where the `requires` clause of its rule does not hold: the key cannot select
  the operation there and "no rule gives them an effect" (R94, U7; DESIGN CHOICE, log 9). Safe. -/
  | notSelected
deriving DecidableEq, Repr

/-- An engine with parameters `p` right after RESET, nothing having been written to its buffers since power-up
(R220, R222, U4). -/
def State.powerOn (p : Params) : State where
  state := .hunting
  prevValid := false
  prev := 0x00
  lenB0 := 0x00
  len := 0x0000
  pos := 0x0000
  xorAcc := 0x00
  byteTimer := 0x0000
  frameTimer := 0x0000
  drainCnt := 0x0000
  stage := []
  seg := []
  errValid := false
  errCode := 0
  params := p
  stimulus := []
  clock := 0

/-- The machine right after reset (R220). Its parameter record is a DESIGN CHOICE (log 2). -/
def State.reset : State := State.powerOn Config.referenceParams

end Sys2Proof.Machine
end

