-- ==== Sys2Proof/Machine/Derived.lean ====
section
/-! DEFINITION. The derived constants of 00_scope.md R7 and the numeric codes of the control states (10_state.md R21), the
failure kinds (60_exceptions.md R190) and the window phases (30_encoding.md R92). -/

namespace Sys2Proof

/-- `EXP_LEN = 3 * TOTAL_PIXELS`, the only legal value of the length field (R7). -/
def Params.expLen (p : Params) : Nat := 3 * p.totalPixels

/-- `WIN_LO = 3 * OFFSET_PIXELS`, the first payload position of the window (R7). -/
def Params.winLo (p : Params) : Nat := 3 * p.offsetPixels

/-- `WIN_HI = 3 * (OFFSET_PIXELS + COUNT_PIXELS)`, one past the window's last position (R7). -/
def Params.winHi (p : Params) : Nat := 3 * (p.offsetPixels + p.countPixels)

/-- `SEG_BYTES = 3 * COUNT_PIXELS`, the size of each buffer (R7). -/
def Params.segBytes (p : Params) : Nat := 3 * p.countPixels

namespace Machine

/-- The 3-bit code of a control state (R21). -/
def Control.code : Control → BitVec 3
  | .hunting => 0
  | .synced => 1
  | .lenPending => 2
  | .bodyPending => 3
  | .checksumPending => 4
  | .valid => 5
  | .draining => 6

/-- The code of a failure kind (R190). -/
def FailureKind.code : FailureKind → BitVec 2
  | .headerMismatch => 0
  | .readTimeout => 1
  | .payloadTimeout => 2
  | .checksumMismatch => 3

/-- `win[1]` and `win[0]` (R92): `00` SKIP, `01` TAKE, `10` DROP. -/
def Window.bits : Window → Bool × Bool
  | .skip => (false, false)
  | .take => (false, true)
  | .drop => (true, false)


end Machine

end Sys2Proof
end

