-- ==== Sys2Proof/Syntax.lean ====
section
/-! DEFINITION. The twenty operations of 30_encoding.md R93 (`opcode_table.json`), one constructor for each row, in the
table's order. A BYTE operation carries the byte `b` it consumes (R11). The BODY operations also carry the two key fields
that their completion reads, `c[3] = CSUM_EN` and `c[2] = last` (R92, R150). -/

namespace Sys2Proof

inductive Instr where
  /-- RESET (R220) -/
  | reset
  /-- HUNT_MISS (R111) -/
  | huntMiss (b : Byte)
  /-- HUNT_SYNC (R112) -/
  | huntSync (b : Byte)
  /-- LEN_B0 (R121) -/
  | lenB0 (b : Byte)
  /-- LEN_B1_OK (R122) -/
  | lenB1Ok (b : Byte)
  /-- LEN_B1_BAD (R123) -/
  | lenB1Bad (b : Byte)
  /-- LEN_B1_DRAIN (R124) -/
  | lenB1Drain (b : Byte)
  /-- DRAIN_BYTE (R125) -/
  | drainByte (b : Byte)
  /-- DRAIN_LAST (R126) -/
  | drainLast (b : Byte)
  /-- BODY_SKIP (R150) -/
  | bodySkip (csumEn last : Bool) (b : Byte)
  /-- BODY_TAKE (R151) -/
  | bodyTake (csumEn last : Bool) (b : Byte)
  /-- BODY_DROP (R152) -/
  | bodyDrop (csumEn last : Bool) (b : Byte)
  /-- CSUM_OK (R136) -/
  | csumOk (b : Byte)
  /-- CSUM_BAD (R137) -/
  | csumBad (b : Byte)
  /-- TICK_IDLE (R172) -/
  | tickIdle
  /-- TICK_COUNT (R173) -/
  | tickCount
  /-- TICK_RTO (R174) -/
  | tickRto
  /-- TICK_PTO (R175) -/
  | tickPto
  /-- SINK_DONE (R154) -/
  | sinkDone
  /-- SINK_IGN (R155) -/
  | sinkIgn
deriving DecidableEq, Repr

end Sys2Proof
end

