-- ==== Sys2Proof/WellFormed.lean ====
section
/-! DEFINITION. Which parameter records are legal (00_scope.md R6), and which operations can occur in an engine built
with given parameters (the corner cases "never taken when" of the operation rules). -/

namespace Sys2Proof

/-- The legality of a parameter record, R6 (a) to (d). -/
def Params.legal (p : Params) : Bool :=
  -- (a)
  decide (p.offsetPixels + p.countPixels ≤ p.totalPixels)
  -- (b)
  && decide (1 ≤ p.totalPixels) && decide (3 * p.totalPixels ≤ 65535)
  -- (c)
  && decide (1 ≤ p.byteTimeout) && decide (p.byteTimeout ≤ 65535)
  && decide (1 ≤ p.frameTimeout) && decide (p.frameTimeout ≤ 65535)
  -- (d)
  && decide (p.drainCap ≤ 65535)

/-- The operations that can occur in an engine with parameters `p`: HUNT_SYNC only on `MARKER2` (R112); the drain
operations only with `DRAIN_EN` (R124, R22); the BODY operations with the key field `c[3]` equal to `CSUM_EN` (R92),
BODY_SKIP never when `OFFSET_PIXELS = 0` and last only when `COUNT_PIXELS = 0` at the end of the frame (R150), BODY_TAKE
never when `COUNT_PIXELS = 0` (R151), BODY_DROP never when the window ends the frame (R152); the checksum operations only
with `CSUM_EN` (R22, R194); TICK_COUNT never when `BYTE_TIMEOUT = 1` (R173). -/
def Instr.wellFormed (p : Params) : Instr → Bool
  | .reset => true
  | .huntMiss _ => true
  | .huntSync b => b == p.marker2
  | .lenB0 _ => true
  | .lenB1Ok _ => true
  | .lenB1Bad _ => true
  | .lenB1Drain _ => p.drainEn && decide (0 < p.drainCap)
  | .drainByte _ => p.drainEn && decide (1 < p.drainCap)
  | .drainLast _ => p.drainEn && decide (0 < p.drainCap)
  | .bodySkip csumEn last _ => csumEn == p.csumEn && decide (0 < p.offsetPixels) &&
      (!last || (p.offsetPixels == p.totalPixels && p.countPixels == 0))
  | .bodyTake csumEn last _ => csumEn == p.csumEn && decide (0 < p.countPixels) &&
      (!last || p.offsetPixels + p.countPixels == p.totalPixels)
  | .bodyDrop csumEn _ _ => csumEn == p.csumEn && decide (p.offsetPixels + p.countPixels < p.totalPixels)
  | .csumOk _ => p.csumEn
  | .csumBad _ => p.csumEn
  | .tickIdle => true
  | .tickCount => decide (1 < p.byteTimeout)
  | .tickRto => true
  | .tickPto => true
  | .sinkDone => true
  | .sinkIgn => true

end Sys2Proof
end

