-- ==== Sys2Proof/Machine/Operands.lean ====
section
/-! DEFINITION. Operand assembly: the declared length from its two bytes (30_encoding.md R82), the drain count
(41_headerreader.md R127), the window translation (20_memory.md R68, R69), and building an engine (00_scope.md R6). -/

namespace Sys2Proof.Machine

/-- `dlen` from the first and second length byte on the wire: `{b0, b1}` when big-endian, `{b1, b0}` when little-endian
(R82). -/
def assembleLen (bigEndian : Bool) (b0 b1 : Byte) : Half :=
  if bigEndian then b0 ++ b1 else b1 ++ b0

/-- `dlen` for the byte `b` consumed in LEN_PENDING (R38). -/
def dlen (s : State) (b : Byte) : Half := assembleLen s.params.lenBigEndian s.lenB0 b

/-- `drain_n = min(dlen, DRAIN_CAP)` (R38, R127). -/
def drainN (s : State) (b : Byte) : Nat := min (dlen s b).toNat s.params.drainCap

/-- The phase of payload position `p` (R68): before, inside or after the window. -/
def windowAt (p : Params) (position : Nat) : Window :=
  if position < p.winLo then .skip
  else if position < p.winHi then .take
  else .drop

/-- The staging address of payload position `position`, if it lies in the window (R69). -/
def stageAddress? (p : Params) (position : Nat) : Option Nat :=
  if p.winLo ≤ position ∧ position < p.winHi then some (position - p.winLo) else none

/-- The staging address BODY_TAKE writes: `pos - WIN_LO` (R151). -/
def stageAddress (s : State) : Nat := s.pos.toNat - s.params.winLo

/-- Building an engine from a parameter record: "an illegal record yields no engine" (R6, R223, U5). -/
def State.build (p : Params) : Option State :=
  if p.legal then some (State.powerOn p) else none

end Sys2Proof.Machine
end

