-- ==== Sys2Proof/Machine/Flags.lean ====
section
/-! DEFINITION. The combinational predicates of 10_state.md R38. None is stored; arithmetic is on mathematical integers
(R9). -/

namespace Sys2Proof.Machine

/-- `hit`: the byte completes the marker pair. -/
def hit (s : State) (b : Byte) : Bool :=
  s.prevValid && s.prev == s.params.marker1 && b == s.params.marker2

/-- `len_ok`: `dlen = EXP_LEN`. -/
def lenOk (s : State) (b : Byte) : Bool := (dlen s b).toNat == s.params.expLen

/-- `do_drain`: `DRAIN_EN and drain_n > 0`. -/
def doDrain (s : State) (b : Byte) : Bool := s.params.drainEn && decide (0 < drainN s b)

/-- `win`: the phase of the payload byte at `pos`. -/
def win (s : State) : Window := windowAt s.params s.pos.toNat

/-- `last` in BODY_PENDING: `pos + 1 = EXP_LEN`. -/
def lastBody (s : State) : Bool := s.pos.toNat + 1 == s.params.expLen

/-- `last` in DRAINING: `drain_cnt = 1`. -/
def lastDrain (s : State) : Bool := s.drainCnt == 1

/-- `ck_ok`: `b = xor_acc`. -/
def ckOk (s : State) (b : Byte) : Bool := b == s.xorAcc

/-- `timed`: the byte timer runs (R22, R171). -/
def timed (s : State) : Bool :=
  match s.state with
  | .synced | .lenPending | .bodyPending | .checksumPending | .draining => true
  | .hunting | .valid => false

/-- `frame_run`: the frame timer runs. -/
def frameRun (s : State) : Bool :=
  (s.state == .bodyPending && decide (1 ≤ s.pos.toNat)) || s.state == .checksumPending

/-- `bto`: this tick would bring the byte timer to its limit. -/
def bto (s : State) : Bool := timed s && decide (s.params.byteTimeout ≤ s.byteTimer.toNat + 1)

/-- `fto`: this tick would bring the frame timer to its limit. -/
def fto (s : State) : Bool := frameRun s && decide (s.params.frameTimeout ≤ s.frameTimer.toNat + 1)

/-- What a BODY operation requires (R131, R150 to R152): BODY_PENDING with `0 <= pos < EXP_LEN`, the phase `w` at `pos`,
and the key fields `c[3]`, `c[2]` as R92 builds them. -/
def bodySelected (w : Window) (csumEn last : Bool) (s : State) : Bool :=
  s.state == .bodyPending && decide (s.pos.toNat < s.params.expLen) && win s == w
    && csumEn == s.params.csumEn && last == lastBody s

end Sys2Proof.Machine
end

