-- ==== Sys2Proof/Machine/Ops.lean ====
section
/-! DEFINITION. The named operations over the buffers and the registers, and the shared procedures of the operation rules:
`enter_hunting()` (10_state.md R39), `report` and `raise` (60_exceptions.md R195: the engine's exception entry; there is
no return from it, R198), `accept()` (43_segmentextractor.md R153), `body_common` and `body_complete`
(42_framebodycollector.md R131, R135), and the write of the output registers at a clock edge (10_state.md R32). -/

namespace Sys2Proof.Machine

/-- The outcome type of this machine. -/
abbrev Result := Host.Outcome State Fault Refusal

/-- The byte at an address, if anything has written it since power-up. -/
def Memory.read? (a : Nat) : Memory → Option Byte
  | [] => none
  | c :: rest => if c.1 = a then some c.2 else Memory.read? a rest

/-- Writing one byte, keeping the addresses strictly rising. -/
def Memory.write (a : Nat) (b : Byte) : Memory → Memory
  | [] => [(a, b)]
  | c :: rest =>
    if a < c.1 then (a, b) :: c :: rest
    else if a = c.1 then (a, b) :: rest
    else c :: Memory.write a b rest

/-- The canonical form: addresses strictly rising. (An unlisted address has no value, so no entry can equal what an
unlisted address reads as.) -/
def Memory.wf : Memory → Bool
  | [] => true
  | [_] => true
  | c :: d :: rest => decide (c.1 < d.1) && Memory.wf (d :: rest)

/-- `stage[a] <- b` (R151). -/
def stageWrite (a : Nat) (b : Byte) (s : State) : State := { s with stage := Memory.write a b s.stage }

/-- `enter_hunting()`: every per-cycle register cleared, `state <- HUNTING`; `stage`, `seg` not written (R39). -/
def enterHunting (s : State) : State :=
  { s with
    state := .hunting
    prevValid := false
    prev := 0x00
    lenB0 := 0x00
    len := 0x0000
    pos := 0x0000
    xorAcc := 0x00
    byteTimer := 0x0000
    frameTimer := 0x0000
    drainCnt := 0x0000 }

/-- `report E`: `err_valid <- 1`, `err_code <- code(E)` at this clock edge (R195, R32). -/
def report (e : FailureKind) (s : State) : State := { s with errValid := true, errCode := e.code }

/-- The value of the output registers at a clock edge at which nothing is reported: `err_valid <- 0`, `err_code <- 0`
(R32). -/
def clearReport (s : State) : State := { s with errValid := false, errCode := 0 }

/-- `raise E`: report the code, then `enter_hunting()`; `seg` and `stage` not written (R195). -/
def raiseFailure (e : FailureKind) (s : State) : State := enterHunting (report e s)

/-- `accept()`: `seg <- stage` as one action, every per-cycle register cleared, `state <- VALID` (R153, R71). -/
def accept (s : State) : State := { enterHunting { s with seg := s.stage } with state := .valid }

/-- `body_complete` (R135), on the fields `last` and `CSUM_EN` of the key: stay, wait for the checksum byte, or accept. -/
def bodyComplete (csumEn last : Bool) (s : State) : State :=
  if last then
    if csumEn then { s with state := .checksumPending } else accept s
  else { s with state := .bodyPending }

/-- `body_common` (R131) without its completion: fold the byte, restart the byte timer, start the frame timer at payload
byte 0, advance `pos`. -/
def bodyCount (b : Byte) (s : State) : State :=
  { s with
    xorAcc := s.xorAcc ^^^ b
    byteTimer := 0
    frameTimer := if s.pos = 0 then 0 else s.frameTimer
    pos := s.pos + 1 }

/-- `body_common` (R131): the collector's part of every payload byte. -/
def bodyCommon (csumEn last : Bool) (b : Byte) (s : State) : State := bodyComplete csumEn last (bodyCount b s)

/-- The next state where the `requires` clause of an operation's rule holds; elsewhere no rule gives an effect (R94;
DESIGN CHOICE, log 9). -/
def whenSelected (requires : Bool) (t : State) : Result :=
  if requires then .next t else .refused .notSelected

end Sys2Proof.Machine
end

