-- ==== Sys2Proof/Machine/FrameBodyCollector.lean ====
section
/-! DEFINITION. FrameBodyCollector's own operations (42_framebodycollector.md): CSUM_OK, CSUM_BAD. Its part of every
payload byte is `bodyCommon` (R131, R135). -/

namespace Sys2Proof.Machine

/-- CSUM_OK (R136): the checksum byte equals the fold: `accept()`. -/
def execCsumOk (b : Byte) (s : State) : Result :=
  whenSelected (s.state == .checksumPending && ckOk s b) (accept s)

/-- CSUM_BAD (R137): the checksum byte differs: `raise ChecksumMismatch`. -/
def execCsumBad (b : Byte) (s : State) : Result :=
  whenSelected (s.state == .checksumPending && !ckOk s b) (raiseFailure .checksumMismatch s)

end Sys2Proof.Machine
end

