-- ==== Sys2Proof/Machine/HeaderReader.lean ====
section
/-! DEFINITION. HeaderReader, the fixed-length header parser (41_headerreader.md): LEN_B0, LEN_B1_OK, LEN_B1_BAD,
LEN_B1_DRAIN, DRAIN_BYTE, DRAIN_LAST. -/

namespace Sys2Proof.Machine

/-- LEN_B0 (R121): the first length-field byte. -/
def execLenB0 (b : Byte) (s : State) : Result :=
  whenSelected (s.state == .synced)
    { s with lenB0 := b, xorAcc := s.xorAcc ^^^ b, byteTimer := 0, state := .lenPending }

/-- LEN_B1_OK (R122): the second length-field byte, declared length as expected. -/
def execLenB1Ok (b : Byte) (s : State) : Result :=
  whenSelected (s.state == .lenPending && lenOk s b)
    { s with len := dlen s b, xorAcc := s.xorAcc ^^^ b, byteTimer := 0, pos := 0, state := .bodyPending }

/-- LEN_B1_BAD (R123): wrong declared length, no drain: `raise HeaderMismatch`. -/
def execLenB1Bad (b : Byte) (s : State) : Result :=
  whenSelected (s.state == .lenPending && !lenOk s b && !doDrain s b) (raiseFailure .headerMismatch s)

/-- LEN_B1_DRAIN (R124): wrong declared length, drain: only the `report` half of `raise`; `enter_hunting()` is deferred
to the end of the drain. -/
def execLenB1Drain (b : Byte) (s : State) : Result :=
  whenSelected (s.state == .lenPending && !lenOk s b && doDrain s b)
    { report .headerMismatch s with
      len := dlen s b
      drainCnt := BitVec.ofNat 16 (drainN s b)
      xorAcc := s.xorAcc ^^^ b
      byteTimer := 0
      state := .draining }

/-- DRAIN_BYTE (R125): a drained byte that is not the last; its value is ignored. -/
def execDrainByte (_b : Byte) (s : State) : Result :=
  whenSelected (s.state == .draining && decide (1 < s.drainCnt.toNat))
    { s with drainCnt := s.drainCnt - 1, byteTimer := 0 }

/-- DRAIN_LAST (R126): the last drained byte; nothing is reported. -/
def execDrainLast (_b : Byte) (s : State) : Result :=
  whenSelected (s.state == .draining && lastDrain s) (enterHunting s)

end Sys2Proof.Machine
end

