-- ==== Sys2Proof/Machine/ResetOp.lean ====
section
/-! DEFINITION. RESET (70_reset_and_hazards.md R220). -/

namespace Sys2Proof.Machine

/-- RESET (R220): `enter_hunting()` and the output registers cleared; `seg` and `stage` not written. -/
def execReset (s : State) : Result := .next (clearReport (enterHunting s))

end Sys2Proof.Machine
end

