-- ==== Sys2Proof/Machine/SegmentExtractor.lean ====
section
/-! DEFINITION. SegmentExtractor (43_segmentextractor.md): the window mask (BODY_SKIP, BODY_TAKE, BODY_DROP) and the
handshake with OutputSink (SINK_DONE, SINK_IGN). -/

namespace Sys2Proof.Machine

/-- BODY_SKIP (R150): a payload byte before the window; no write to `stage`. -/
def execBodySkip (csumEn last : Bool) (b : Byte) (s : State) : Result :=
  whenSelected (bodySelected .skip csumEn last s) (bodyCommon csumEn last b s)

/-- BODY_TAKE (R151): a payload byte inside the window, written to `stage[pos - WIN_LO]` before the completion, so that
`accept()` in the same step copies it (R135). -/
def execBodyTake (csumEn last : Bool) (b : Byte) (s : State) : Result :=
  whenSelected (bodySelected .take csumEn last s) (bodyCommon csumEn last b (stageWrite (stageAddress s) b s))

/-- BODY_DROP (R152): a payload byte after the window; no write to `stage`. -/
def execBodyDrop (csumEn last : Bool) (b : Byte) (s : State) : Result :=
  whenSelected (bodySelected .drop csumEn last s) (bodyCommon csumEn last b s)

/-- SINK_DONE (R154): OutputSink has finished; the receive cycle ends. But for RESET no other operation leaves VALID, so that
`sink_done` must come: OutputSink's duty, `Environment.SinkAnswers` (R231; log 19). -/
def execSinkDone (s : State) : Result :=
  whenSelected (s.state == .valid) (enterHunting s)

/-- SINK_IGN (R155): `sink_done` when the clock cycle did not begin in VALID: no register changes. The clause speaks of
the start of the clock cycle, which the state at the event does not show, so nothing is required here (DEDUCED, log 12). -/
def execSinkIgn (s : State) : Result := .next s

end Sys2Proof.Machine
end

