-- ==== Sys2Proof/Machine/SyncHunter.lean ====
section
/-! DEFINITION. SyncHunter, the marker detector (40_synchunter.md): HUNT_MISS, HUNT_SYNC. -/

namespace Sys2Proof.Machine

/-- HUNT_MISS (R111): the byte does not complete the marker pair and becomes the new candidate. -/
def execHuntMiss (b : Byte) (s : State) : Result :=
  whenSelected (s.state == .hunting && !hit s b) { s with prev := b, prevValid := true }

/-- HUNT_SYNC (R112): the byte completes the marker pair. -/
def execHuntSync (b : Byte) (s : State) : Result :=
  whenSelected (s.state == .hunting && hit s b)
    { s with state := .synced, prevValid := false, prev := 0x00, xorAcc := 0x00, byteTimer := 0 }

end Sys2Proof.Machine
end

