-- ==== Sys2Proof/Machine/Timers.lean ====
section
/-! DEFINITION. The TICK operations (44_timeouts.md): TICK_IDLE, TICK_COUNT, TICK_RTO, TICK_PTO. -/

namespace Sys2Proof.Machine

/-- TICK_IDLE (R172): a tick in a state with no timer. -/
def execTickIdle (s : State) : Result := whenSelected (!timed s) s

/-- TICK_COUNT (R173): a tick in a timed state with no expiry. -/
def execTickCount (s : State) : Result :=
  whenSelected (timed s && !fto s && !bto s)
    { s with
      byteTimer := s.byteTimer + 1
      frameTimer := if frameRun s then s.frameTimer + 1 else s.frameTimer }

/-- TICK_RTO (R174): the byte timer expires and the frame timer does not: `raise ReadTimeout`. -/
def execTickRto (s : State) : Result :=
  whenSelected (timed s && bto s && !fto s) (raiseFailure .readTimeout s)

/-- TICK_PTO (R175): the frame timer expires: `raise PayloadTimeout`, whatever the byte timer does. -/
def execTickPto (s : State) : Result :=
  whenSelected (timed s && fto s) (raiseFailure .payloadTimeout s)

end Sys2Proof.Machine
end

