-- ==== Sys2Proof/Machine/Dispatch.lean ====
section
/-! DEFINITION. The dispatch of the twenty operations, one arm per constructor (30_encoding.md R93). -/

namespace Sys2Proof.Machine

def exec (i : Instr) (s : State) : Host.Outcome State Fault Refusal :=
  match i with
  | .reset => Sys2Proof.Machine.execReset s
  | .huntMiss b => Sys2Proof.Machine.execHuntMiss b s
  | .huntSync b => Sys2Proof.Machine.execHuntSync b s
  | .lenB0 b => Sys2Proof.Machine.execLenB0 b s
  | .lenB1Ok b => Sys2Proof.Machine.execLenB1Ok b s
  | .lenB1Bad b => Sys2Proof.Machine.execLenB1Bad b s
  | .lenB1Drain b => Sys2Proof.Machine.execLenB1Drain b s
  | .drainByte b => Sys2Proof.Machine.execDrainByte b s
  | .drainLast b => Sys2Proof.Machine.execDrainLast b s
  | .bodySkip csumEn last b => Sys2Proof.Machine.execBodySkip csumEn last b s
  | .bodyTake csumEn last b => Sys2Proof.Machine.execBodyTake csumEn last b s
  | .bodyDrop csumEn last b => Sys2Proof.Machine.execBodyDrop csumEn last b s
  | .csumOk b => Sys2Proof.Machine.execCsumOk b s
  | .csumBad b => Sys2Proof.Machine.execCsumBad b s
  | .tickIdle => Sys2Proof.Machine.execTickIdle s
  | .tickCount => Sys2Proof.Machine.execTickCount s
  | .tickRto => Sys2Proof.Machine.execTickRto s
  | .tickPto => Sys2Proof.Machine.execTickPto s
  | .sinkDone => Sys2Proof.Machine.execSinkDone s
  | .sinkIgn => Sys2Proof.Machine.execSinkIgn s

end Sys2Proof.Machine
end

