-- ==== Sys2Proof/Decode.lean ====
section
/-! DEFINITION. The decoder of the 10-bit dispatch key (30_encoding.md R90 to R94, `opcode_table.json`) and the encoder.

An instruction is laid out as two bytes of key, the less significant first (bits 9..0 of the 16-bit word; bits 15..10 are
zero), followed, for a BYTE operation, by one byte, the consumed byte `b`. The table gives `b` no bits: this layout is the
model's (DESIGN CHOICE, log 11). -/

namespace Sys2Proof

/-- Why bytes are no instruction. -/
inductive DecodeError where
  /-- The bytes end before the key or the operand byte is complete. -/
  | truncated
  /-- A set bit above bit 9 of the key word (R91 gives the key ten bits). -/
  | keyTooWide (word : BitVec 16)
  /-- A key that cannot occur and selects "no operation" (R94). -/
  | noOperation (key : BitVec 10)
deriving DecidableEq, Repr

/-- The event classes of R90. -/
inductive EventClass where
  | byte
  | tick
  | sink
  | none
deriving DecidableEq, Repr

/-- The code `ev[1:0]` (R90). -/
def EventClass.code : EventClass → BitVec 2
  | .byte => 0b00
  | .tick => 0b01
  | .sink => 0b10
  | .none => 0b11

/-- One row of the operation map R93: `key &&& mask = value` selects it. -/
structure OpRow where
  mnemonic : String
  value : BitVec 10
  mask : BitVec 10
  /-- The row's event class is BYTE: the operand byte follows the key. -/
  isByte : Bool
  /-- The operation, from `c[3]`, `c[2]` and the operand byte. -/
  build : Bool → Bool → Byte → Instr

/-- The operation map R93, in the table's order. -/
def opRows : List OpRow :=
  [ ⟨"RESET",        0x200, 0x200, false, fun _ _ _ => .reset⟩,
    ⟨"HUNT_MISS",    0x000, 0x3F1, true,  fun _ _ b => .huntMiss b⟩,
    ⟨"HUNT_SYNC",    0x001, 0x3F1, true,  fun _ _ b => .huntSync b⟩,
    ⟨"LEN_B0",       0x010, 0x3F0, true,  fun _ _ b => .lenB0 b⟩,
    ⟨"LEN_B1_OK",    0x021, 0x3F1, true,  fun _ _ b => .lenB1Ok b⟩,
    ⟨"LEN_B1_BAD",   0x020, 0x3F9, true,  fun _ _ b => .lenB1Bad b⟩,
    ⟨"LEN_B1_DRAIN", 0x028, 0x3F9, true,  fun _ _ b => .lenB1Drain b⟩,
    ⟨"DRAIN_BYTE",   0x060, 0x3F4, true,  fun _ _ b => .drainByte b⟩,
    ⟨"DRAIN_LAST",   0x064, 0x3F4, true,  fun _ _ b => .drainLast b⟩,
    ⟨"BODY_SKIP",    0x030, 0x3F3, true,  fun c l b => .bodySkip c l b⟩ ] ++
  [ ⟨"BODY_TAKE",    0x031, 0x3F3, true,  fun c l b => .bodyTake c l b⟩,
    ⟨"BODY_DROP",    0x032, 0x3F3, true,  fun c l b => .bodyDrop c l b⟩,
    ⟨"CSUM_OK",      0x041, 0x3F1, true,  fun _ _ b => .csumOk b⟩,
    ⟨"CSUM_BAD",     0x040, 0x3F1, true,  fun _ _ b => .csumBad b⟩,
    ⟨"TICK_IDLE",    0x080, 0x384, false, fun _ _ _ => .tickIdle⟩,
    ⟨"TICK_COUNT",   0x084, 0x387, false, fun _ _ _ => .tickCount⟩,
    ⟨"TICK_RTO",     0x085, 0x387, false, fun _ _ _ => .tickRto⟩,
    ⟨"TICK_PTO",     0x086, 0x386, false, fun _ _ _ => .tickPto⟩,
    ⟨"SINK_DONE",    0x101, 0x381, false, fun _ _ _ => .sinkDone⟩,
    ⟨"SINK_IGN",     0x100, 0x381, false, fun _ _ _ => .sinkIgn⟩ ]

/-- A row matches a key (the check of 95_test_vectors.md section 3.7: `key & mask = match`). -/
def OpRow.matchesKey (r : OpRow) (k : BitVec 10) : Bool := (k &&& r.mask) == r.value

/-- The field `rst`, bit 9 (R91). -/
def keyRst (k : BitVec 10) : Bool := k.getLsbD 9

/-- The field `ev`, bits 8:7 (R91). -/
def keyEv (k : BitVec 10) : BitVec 2 := k.extractLsb' 7 2

/-- The field `st`, bits 6:4 (R91). -/
def keySt (k : BitVec 10) : BitVec 3 := k.extractLsb' 4 3

/-- The condition bit `c[i]`, `i < 4` (R91). -/
def keyC (k : BitVec 10) (i : Nat) : Bool := k.getLsbD i

/-- The keys that cannot occur (R94); with `rst = 1` "the rest is ignored" (R91). DEDUCED (log 18). -/
def keyImpossible (k : BitVec 10) : Bool :=
  !keyRst k &&
    (keyEv k == 0b11
      || (keyEv k == 0b00 && keySt k == 5)
      || keySt k == 7
      || (keyEv k == 0b00 && keySt k == 3 && keyC k 1 && keyC k 0)
      || (keyEv k == 0b01 && !keyC k 2 && (keyC k 1 || keyC k 0)))

/-- The row a key selects: none for the keys of R94. -/
def selectRow (k : BitVec 10) : Option OpRow :=
  if keyImpossible k then none else opRows.find? (·.matchesKey k)

/-- The operation a key selects, with operand byte `b` (R93, R94). -/
def decodeKey (k : BitVec 10) (b : Byte) : Except DecodeError Instr :=
  match selectRow k with
  | some r => .ok (r.build (keyC k 3) (keyC k 2) b)
  | none => .error (.noOperation k)

/-- The decoder, total on any bytes: the instruction at the head of the list and the bytes after it. -/
def decode : List Byte → Except DecodeError (Instr × List Byte)
  | lo :: hi :: rest =>
    let word : BitVec 16 := hi ++ lo
    if 1024 ≤ word.toNat then .error (.keyTooWide word)
    else
      let k : BitVec 10 := word.setWidth 10
      match selectRow k with
      | none => .error (.noOperation k)
      | some r =>
        if r.isByte then
          match rest with
          | b :: rest' => .ok (r.build (keyC k 3) (keyC k 2) b, rest')
          | [] => .error .truncated
        else .ok (r.build (keyC k 3) (keyC k 2) 0, rest)
  | _ => .error .truncated

/-- The dispatch key of R91 from its fields. -/
def mkKey (rst : Bool) (ev : EventClass) (st : BitVec 3) (c3 c2 c1 c0 : Bool) : BitVec 10 :=
  BitVec.ofBool rst ++ ev.code ++ st ++ BitVec.ofBool c3 ++ BitVec.ofBool c2 ++ BitVec.ofBool c1 ++ BitVec.ofBool c0

/-- The key of an operation with every bit that the match ignores and that is no field at 0 (R93). -/
def encodeKey : Instr → BitVec 10
  | .reset => mkKey true .byte 0 false false false false
  | .huntMiss _ => mkKey false .byte 0 false false false false
  | .huntSync _ => mkKey false .byte 0 false false false true
  | .lenB0 _ => mkKey false .byte 1 false false false false
  | .lenB1Ok _ => mkKey false .byte 2 false false false true
  | .lenB1Bad _ => mkKey false .byte 2 false false false false
  | .lenB1Drain _ => mkKey false .byte 2 true false false false
  | .drainByte _ => mkKey false .byte 6 false false false false
  | .drainLast _ => mkKey false .byte 6 false true false false
  | .bodySkip csumEn last _ => mkKey false .byte 3 csumEn last false false
  | .bodyTake csumEn last _ => mkKey false .byte 3 csumEn last false true
  | .bodyDrop csumEn last _ => mkKey false .byte 3 csumEn last true false
  | .csumOk _ => mkKey false .byte 4 false false false true
  | .csumBad _ => mkKey false .byte 4 false false false false
  | .tickIdle => mkKey false .tick 0 false false false false
  | .tickCount => mkKey false .tick 0 false true false false
  | .tickRto => mkKey false .tick 0 false true false true
  | .tickPto => mkKey false .tick 0 false true true false
  | .sinkDone => mkKey false .sink 0 false false false true
  | .sinkIgn => mkKey false .sink 0 false false false false

/-- The operand byte of an operation: none unless its event is BYTE (R11). -/
def Instr.operand : Instr → Option Byte
  | .reset | .tickIdle | .tickCount | .tickRto | .tickPto | .sinkDone | .sinkIgn => none
  | .huntMiss b | .huntSync b | .lenB0 b | .lenB1Ok b | .lenB1Bad b | .lenB1Drain b => some b
  | .drainByte b | .drainLast b | .csumOk b | .csumBad b => some b
  | .bodySkip _ _ b | .bodyTake _ _ b | .bodyDrop _ _ b => some b

/-- The bytes of an instruction: its key word, less significant byte first, then its operand byte. -/
def encode (i : Instr) : List Byte :=
  let word : BitVec 16 := (encodeKey i).setWidth 16
  word.extractLsb' 0 8 :: word.extractLsb' 8 8 :: i.operand.toList

/-- The three bytes that hold an instruction whose bits are `w`, numbered as `opcode_table.json` numbers them; every bit
at or above `nbits` (in whole bytes) is 0. -/
def wordBytes (nbits w : Nat) : List Byte :=
  let v := w % 2 ^ (8 * ((nbits + 7) / 8))
  [BitVec.ofNat 8 v, BitVec.ofNat 8 (v / 256), BitVec.ofNat 8 (v / 65536)]

/-- The instruction the decoder reads from the table's word `w`. -/
def decodeTableWord (nbits w : Nat) : Option Instr :=
  match decode (wordBytes nbits w) with
  | .ok (i, _) => some i
  | .error _ => none

end Sys2Proof
end

