-- ==== Sys2Proof/Machine/Fetch.lean ====
section
/-! DEFINITION. What takes the place of an instruction fetch: the 10-bit dispatch key, "built afresh for each event from
the state at the start of that event" (30_encoding.md R91, R92). -/

namespace Sys2Proof.Machine

/-- The key of a clock edge with `rst = 1`; "the rest is ignored" (R91). -/
def resetKey (s : State) : BitVec 10 := mkKey true .none s.state.code false false false false

/-- The key of `BYTE(b)`, with the condition bits of R92 for each control state. -/
def byteKey (s : State) (b : Byte) : BitVec 10 :=
  match s.state with
  | .hunting => mkKey false .byte s.state.code false false false (hit s b)
  | .synced => mkKey false .byte s.state.code false false false false
  | .lenPending => mkKey false .byte s.state.code (doDrain s b) false false (lenOk s b)
  | .bodyPending => mkKey false .byte s.state.code s.params.csumEn (lastBody s) (win s).bits.1 (win s).bits.2
  | .checksumPending => mkKey false .byte s.state.code false false false (ckOk s b)
  | .draining => mkKey false .byte s.state.code false (lastDrain s) false false
  | .valid => mkKey false .byte s.state.code false false false false

/-- The key of TICK (R92). -/
def tickKey (s : State) : BitVec 10 := mkKey false .tick s.state.code false (timed s) (fto s) (bto s)

/-- The key of SINK. `c[0]` is `state = VALID` at the start of the clock cycle, where `start` is the state then (R154,
R176; DEDUCED, log 10). -/
def sinkKey (start s : State) : BitVec 10 :=
  mkKey false .sink s.state.code false false false (start.state == .valid)

/-- The inputs sampled at this clock edge: the head of the stimulus, or what the free environment offers after its end
(DESIGN CHOICE, log 3; free value, log 4). -/
def sampledInputs (s : State) : PortInputs :=
  match s.stimulus with
  | i :: _ => i
  | [] => Config.laterInputs s.clock

/-- The clock edge itself: the sampled inputs are used up and the clock advances (DESIGN CHOICE, log 3, log 5). -/
def advance (s : State) : State := { s with stimulus := s.stimulus.tail, clock := s.clock + 1 }

/-- The state on which the events of a clock edge act: inputs used up, and the output registers at the value they take
when nothing is reported (R32; DEDUCED, log 16). -/
def edge (s : State) : State := clearReport (advance s)

end Sys2Proof.Machine
end

