-- ==== Sys2Proof/Machine/Cycle.lean ====
section
/-! DEFINITION. The composition of one clock cycle (44_timeouts.md R176): the events TICK, BYTE, SINK in this order, each
dispatched through its key; `rst` dominates (70_reset_and_hazards.md R221). -/

namespace Sys2Proof.Machine

/-- What a clock cycle does after one of its events: go on, or stop where the event stopped. -/
def thenDo (o : Result) (f : State → Result) : Result :=
  match o with
  | .next s => f s
  | .fault r => .fault r
  | .refused r => .refused r

/-- Dispatch one event: decode its key and run the operation it selects (R93). -/
def dispatch (key : BitVec 10) (b : Byte) (s : State) : Result :=
  match decodeKey key b with
  | .ok i => exec i s
  | .error _ => .refused .noOperation

/-- The TICK event of a clock cycle, if there is one. -/
def tickEvent (inp : PortInputs) (s : State) : Result :=
  if inp.tick then dispatch (tickKey s) 0 s else .next s

/-- The BYTE event: a byte is consumed when it is offered and the cycle began outside VALID (R35, R176); the operation is
chosen by the state after the tick. -/
def byteEvent (start : State) (inp : PortInputs) (s : State) : Result :=
  if inp.rxValid && start.state != .valid then dispatch (byteKey s inp.rxData) inp.rxData s else .next s

/-- The SINK event: SINK_DONE if the cycle began in VALID, else SINK_IGN (R154, R155, R176). -/
def sinkEvent (start : State) (inp : PortInputs) (s : State) : Result :=
  if inp.sinkDone then dispatch (sinkKey start s) 0 s else .next s

/-- One clock edge with the sampled inputs `inp`, on `s` as `edge` leaves it (R176, R221). -/
def cycle (inp : PortInputs) (s : State) : Result :=
  if inp.rst then dispatch (resetKey s) 0 s
  else thenDo (thenDo (tickEvent inp s) (byteEvent s inp)) (sinkEvent s inp)

/-- One rising clock edge of an engine: refused where its parameter record is illegal, for "the model gives no step for
it" (R6). -/
def clockEdge (s : State) : Result :=
  if s.params.legal then cycle (sampledInputs s) (edge s) else .refused .illegalParameters

end Sys2Proof.Machine
end

