-- ==== Sys2Proof/Machine/Wire.lean ====
section
/-! DEFINITION. The wire format (30_encoding.md R80 to R86), the XOR-fold (42_framebodycollector.md R138), what a sender
emits (R97), and the stimulus notation (R95, R96): the machine's "assembler". -/

namespace Sys2Proof

/-- The XOR-fold of a byte range; the empty fold is `0x00` (R138). -/
def xorFold (bytes : List Byte) : Byte := bytes.foldl (· ^^^ ·) 0x00

/-- `MARK`: the two marker bytes (R81, R96). -/
def Params.mark (p : Params) : List Byte := [p.marker1, p.marker2]

/-- `LEN(n)`: the two length bytes of `n` in the variant's order (R85, R96). -/
def Params.lenBytes (p : Params) (n : Nat) : List Byte :=
  if p.lenBigEndian then [BitVec.ofNat 8 (n / 256), BitVec.ofNat 8 n]
  else [BitVec.ofNat 8 n, BitVec.ofNat 8 (n / 256)]

/-- The checksum byte of a packet: the fold of the length-field bytes and the payload; the marker is excluded (R84). -/
def Params.checksum (p : Params) (payload : List Byte) : Byte := xorFold (p.lenBytes p.expLen ++ payload)

/-- `FRAME!(payload ; ck)`: a packet with an explicit checksum byte, present only when `CSUM_EN` (R96, R80). -/
def Params.frameWith (p : Params) (payload : List Byte) (ck : Byte) : List Byte :=
  p.mark ++ p.lenBytes p.expLen ++ payload ++ (if p.csumEn then [ck] else [])

/-- `FRAME(payload)`: the packet of a payload (R96, R80). -/
def Params.frame (p : Params) (payload : List Byte) : List Byte := p.frameWith payload (p.checksum payload)

/-- A pixel on the wire: red, green, blue (R63). -/
structure Pixel where
  red : Byte
  green : Byte
  blue : Byte
deriving DecidableEq, Repr

/-- `PIX(r,g,b)` (R96, R63). -/
def Pixel.bytes (x : Pixel) : List Byte := [x.red, x.green, x.blue]

/-- What a sender emits for a frame of pixels, in global pixel order (R97, R63). -/
def Params.sent (p : Params) (pixels : List Pixel) : List Byte := p.frame (pixels.flatMap Pixel.bytes)

/-- The window of a payload: positions `WIN_LO .. WIN_HI - 1` (R68; what the buffered variant of R159 would copy). -/
def Params.windowOf (p : Params) (payload : List Byte) : List Byte := (payload.drop p.winLo).take p.segBytes

/-- One clock cycle in which the byte `b` is offered and nothing else happens: the item `XX` (R95). -/
def PortInputs.offer (b : Byte) : PortInputs := { rxValid := true, rxData := b }

/-- One clock cycle with a tick only: the item `T` (R95). -/
def PortInputs.tickOnly : PortInputs := { tick := true }

/-- One clock cycle with `sink_done` only: the item `S` (R95). -/
def PortInputs.sinkOnly : PortInputs := { sinkDone := true }

/-- The stimulus items of R95. -/
inductive Item where
  /-- `XX` -/
  | byte (b : Byte)
  /-- `T` -/
  | tick
  /-- `S` -/
  | sink
  /-- `.` -/
  | idle
  /-- `R`: `rst = 1`, the other inputs any -/
  | reset (others : PortInputs)
  /-- `[T XX]`, `[T S]`, `[XX S]`, `[T XX S]`: the union of the inputs inside -/
  | together (t : Bool) (b : Option Byte) (s : Bool)
  /-- `item*n` -/
  | times (item : Item) (n : Nat)
deriving DecidableEq, Repr

/-- The clock cycles of an item (R95). -/
def Item.cycles : Item → List PortInputs
  | .byte b => [PortInputs.offer b]
  | .tick => [PortInputs.tickOnly]
  | .sink => [PortInputs.sinkOnly]
  | .idle => [{}]
  | .reset others => [{ others with rst := true }]
  | .together t b s => [{ tick := t, rxValid := b.isSome, rxData := b.getD 0, sinkDone := s }]
  | .times item n => (List.replicate n item.cycles).flatten

/-- A stimulus: its items, one after the other (R95). -/
def stimulusOf (items : List Item) : List PortInputs := items.flatMap Item.cycles

/-- A run of `XX` items: the expansion of every pseudo-item of R96. -/
def offerAll (bytes : List Byte) : List PortInputs := bytes.map PortInputs.offer

end Sys2Proof
end

