-- ==== Sys2Proof/Machine/Place.lean ====
section
/-! DEFINITION. Placing one operation so that the next clock edge selects it. The engine has no program memory: an operation
is selected by the inputs, the control state and the predicates (30_encoding.md R91, R92), so placing it sets the inputs of
the coming clock edge and what its key is built from, and changes a parameter only where the present one makes the operation
impossible (DESIGN CHOICE, log 13). -/

namespace Sys2Proof.Machine

/-- `s` with the inputs `inp` at its next clock edge, before the stimulus already placed. -/
def State.pushInputs (inp : PortInputs) (s : State) : State := { s with stimulus := inp :: s.stimulus }

/-- A first length byte with which the second byte `b` declares a length other than `EXP_LEN`: `x`, or `x + 1`. -/
def mismatchingByte (s : State) (x b : Byte) : Byte :=
  if (assembleLen s.params.lenBigEndian x b).toNat = s.params.expLen then x + 1 else x

/-- The first length byte with which the second byte `b` declares `EXP_LEN`. -/
def matchingByte (p : Params) : Byte :=
  if p.lenBigEndian then BitVec.ofNat 8 (p.expLen / 256) else BitVec.ofNat 8 p.expLen

/-- `s` in LEN_PENDING such that the byte `b` completes `EXP_LEN`; where no first byte can do it, `TOTAL_PIXELS` is the
least whose length field has `b` as its second byte in little-endian order. -/
def placeLenOk (b : Byte) (s : State) : State :=
  let p :=
    if (assembleLen s.params.lenBigEndian (matchingByte s.params) b).toNat = s.params.expLen then s.params
    else { s.params with
      totalPixels := max 1 ((256 * b.toNat + 2) / 3), offsetPixels := 0, countPixels := 0, lenBigEndian := false }
  { s with state := .lenPending, params := p, lenB0 := matchingByte p }

/-- `s` in LEN_PENDING such that the byte `b` declares a wrong length that is not drained. -/
def placeLenBad (b : Byte) (s : State) : State :=
  let t := { s with state := .lenPending, lenB0 := mismatchingByte s 0 b }
  if doDrain t b then { t with params := { t.params with drainEn := false } } else t

/-- `s` in LEN_PENDING such that the byte `b` declares a wrong length that is drained. -/
def placeLenDrain (b : Byte) (s : State) : State :=
  { s with
    state := .lenPending
    lenB0 := mismatchingByte s 1 b
    params := { s.params with drainEn := true, drainCap := max 1 s.params.drainCap } }

/-- The first payload position of a window phase. -/
def firstOf (p : Params) : Window → Nat
  | .skip => 0
  | .take => p.winLo
  | .drop => p.winHi

/-- Parameters in which every payload position has the phase `w`. -/
def wholly (p : Params) : Window → Params
  | .skip => { p with offsetPixels := p.totalPixels, countPixels := 0 }
  | .take => { p with offsetPixels := 0, countPixels := p.totalPixels }
  | .drop => { p with offsetPixels := 0, countPixels := 0 }

/-- `s` in BODY_PENDING at a position of phase `w` that is the last payload position or not, as `last` says; the window is
changed only where it has no such position. -/
def placeBody (w : Window) (csumEn last : Bool) (s : State) : State :=
  let p := { s.params with csumEn := csumEn }
  let position := if last then p.expLen - 1 else firstOf p w
  if windowAt p position = w ∧ (position + 1 == p.expLen) = last ∧ position < p.expLen then
    { s with state := .bodyPending, params := p, pos := BitVec.ofNat 16 position }
  else
    { s with
      state := .bodyPending
      params := wholly p w
      pos := BitVec.ofNat 16 (if last then p.expLen - 1 else 0) }

/-- `s` made such that its next clock edge selects and runs exactly `i`. -/
def placeInstr (i : Instr) (s : State) : State :=
  match i with
  | .reset => s.pushInputs { rst := true }
  | .huntMiss b => { s with state := .hunting, prevValid := false }.pushInputs (PortInputs.offer b)
  | .huntSync b =>
    { s with
      state := .hunting
      prevValid := true
      prev := s.params.marker1
      params := { s.params with marker2 := b } }.pushInputs (PortInputs.offer b)
  | .lenB0 b => { s with state := .synced }.pushInputs (PortInputs.offer b)
  | .lenB1Ok b => (placeLenOk b s).pushInputs (PortInputs.offer b)
  | .lenB1Bad b => (placeLenBad b s).pushInputs (PortInputs.offer b)
  | .lenB1Drain b => (placeLenDrain b s).pushInputs (PortInputs.offer b)
  | .drainByte b => { s with state := .draining, drainCnt := 2 }.pushInputs (PortInputs.offer b)
  | .drainLast b => { s with state := .draining, drainCnt := 1 }.pushInputs (PortInputs.offer b)
  | .bodySkip csumEn last b => (placeBody .skip csumEn last s).pushInputs (PortInputs.offer b)
  | .bodyTake csumEn last b => (placeBody .take csumEn last s).pushInputs (PortInputs.offer b)
  | .bodyDrop csumEn last b => (placeBody .drop csumEn last s).pushInputs (PortInputs.offer b)
  | .csumOk b => { s with state := .checksumPending, xorAcc := b }.pushInputs (PortInputs.offer b)
  | .csumBad b => { s with state := .checksumPending, xorAcc := b ^^^ 1 }.pushInputs (PortInputs.offer b)
  | .tickIdle => { s with state := .hunting }.pushInputs PortInputs.tickOnly
  | .tickCount =>
    { s with
      state := .synced
      byteTimer := 0
      params := { s.params with byteTimeout := max 2 s.params.byteTimeout } }.pushInputs PortInputs.tickOnly
  | .tickRto =>
    { s with state := .synced, byteTimer := BitVec.ofNat 16 (s.params.byteTimeout - 1) }.pushInputs PortInputs.tickOnly
  | .tickPto =>
    { s with
      state := .checksumPending
      frameTimer := BitVec.ofNat 16 (s.params.frameTimeout - 1) }.pushInputs PortInputs.tickOnly
  | .sinkDone => { s with state := .valid }.pushInputs PortInputs.sinkOnly
  | .sinkIgn => { s with state := .hunting }.pushInputs PortInputs.sinkOnly

end Sys2Proof.Machine
end

