-- ==== Sys2Proof/Machine/Step.lean ====
section
/-! DEFINITION. The step function, one rising clock edge (00_scope.md R8, 44_timeouts.md R176), and the placing of one
operation of the opcode table. -/

namespace Sys2Proof.Machine

/-- One step of the engine: one rising edge of `clk` (R8, R176). -/
def step (s : State) : Host.Outcome State Fault Refusal := clockEdge s

/-- `s` made such that its next step runs the operation of the table's word `w` (DESIGN CHOICE, log 13); `s` itself where the decoder
refuses the word, for no key of R94 can be made to occur. -/
def State.withFetchWord (s : State) (nbits w : Nat) : State :=
  match decodeTableWord nbits w with
  | some i => placeInstr i s
  | none => s

end Sys2Proof.Machine
end

