-- ==== Sys2Proof/Machine/Ports.lean ====
section
/-! DEFINITION. The output ports (10_state.md R34 to R37): functions of the present state and, for the segment read port, of
the read address. -/

namespace Sys2Proof.Machine

/-- `rx_ready`: a function of the present state alone (R35). -/
def rxReady (s : State) : Bool := s.state != .valid

/-- `frame_valid` (R36). -/
def frameValid (s : State) : Bool := s.state == .valid

/-- `state_o` (R36). -/
def stateO (s : State) : BitVec 3 := s.state.code

/-- The byte of `seg` at address `j` as the read port shows it: the byte written there, or, before anything has written it,
a free value (R31, R222, U1; log 6). -/
def segByte (s : State) (j : Nat) : Byte := (Memory.read? j s.seg).getD (Config.powerUpSeg j)

/-- The bytes of `seg`, address 0 first, as the read port shows them. -/
def segContents (s : State) : List Byte := (List.range s.params.segBytes).map (segByte s)

/-- `seg_rd_data` for `seg_rd_addr = a`: `{red, green, blue}` of pixel `a`; a free value for `a >= COUNT_PIXELS`
(R37, U3; log 7; DESIGN CHOICE, log 15). -/
def segRdData (s : State) (a : Nat) : BitVec 24 :=
  if a < s.params.countPixels then segByte s (3 * a) ++ segByte s (3 * a + 1) ++ segByte s (3 * a + 2)
  else Config.segReadOutOfRange s.clock a

/-- The width of `seg_rd_addr`, `max(1, ceil(log2(COUNT_PIXELS)))` (R34). -/
def segRdAddrWidth (p : Params) : Nat := max 1 (Nat.clog 2 p.countPixels)

/-- All output ports in one clock cycle (R34). -/
structure PortOutputs where
  rxReady : Bool
  frameValid : Bool
  segRdData : BitVec 24
  errValid : Bool
  errCode : BitVec 2
  stateO : BitVec 3
deriving DecidableEq, Repr

/-- The output ports for the read address `a` (R34). -/
def outputs (s : State) (a : Nat) : PortOutputs where
  rxReady := rxReady s
  frameValid := frameValid s
  segRdData := segRdData s a
  errValid := s.errValid
  errCode := s.errCode
  stateO := stateO s

end Sys2Proof.Machine
end

