-- ==== Sys2Proof/Safety.lean ====
section
/-! DEFINITION. The terms in which claims speak of a safe run: the invariants of every reachable state (10_state.md R40, R29),
the coverage of the staging buffer (20_memory.md R75), the partition of a frame among receivers (00_scope.md R16), runs
over given inputs, and the duties of the environment (00_scope.md R13), which claims may assume and no step does. -/

namespace Sys2Proof.Machine

/-- Every per-cycle register except `prev`, `prev_valid` and the control state is 0 (R40 (b), (c)). -/
def cycleClear (s : State) : Bool :=
  s.lenB0 == 0 && s.len == 0 && s.pos == 0 && s.xorAcc == 0 && s.byteTimer == 0 && s.frameTimer == 0 && s.drainCnt == 0

/-- What R40 (b) to (h) say of each control state; (a) holds by the type. -/
def controlInv (s : State) : Bool :=
  match s.state with
  | .hunting => cycleClear s
  | .valid => cycleClear s && s.prev == 0
  | .synced => s.xorAcc == 0 && s.pos == 0 && s.len == 0 && s.lenB0 == 0
  | .lenPending => s.xorAcc == s.lenB0 && s.pos == 0
  | .bodyPending => s.len.toNat == s.params.expLen && decide (s.pos.toNat < s.params.expLen)
  | .checksumPending =>
    s.params.csumEn && s.len.toNat == s.params.expLen && s.pos.toNat == s.params.expLen
  | .draining =>
    s.params.drainEn && s.len.toNat != s.params.expLen && decide (1 ≤ s.drainCnt.toNat)
      && decide (s.drainCnt.toNat ≤ min s.len.toNat s.params.drainCap)

/-- R40 (i), (j): the timers stay below their limits and are 0 where they do not run. -/
def timerInv (s : State) : Bool :=
  decide (s.byteTimer.toNat < s.params.byteTimeout) && decide (s.frameTimer.toNat < s.params.frameTimeout)
    && (timed s || s.byteTimer == 0) && (frameRun s || s.frameTimer == 0)

/-- R40 (k), (l) and R29: `prev_valid = 0` outside HUNTING, `err_code = 0` whenever `err_valid = 0`, `drain_cnt` is 0
outside DRAINING. -/
def flagInv (s : State) : Bool :=
  (s.state == .hunting || !s.prevValid) && (s.errValid || s.errCode == 0) && (s.state == .draining || s.drainCnt == 0)

/-- A buffer is in canonical form and has only addresses `0 .. SEG_BYTES - 1` (R30, R31). -/
def bufferInv (p : Params) (m : Memory) : Bool := Memory.wf m && m.all (fun c => decide (c.1 < p.segBytes))

/-- The invariants of every reachable state (R40), of an engine with legal parameters (R6). -/
def State.inv (s : State) : Bool :=
  s.params.legal && controlInv s && timerInv s && flagInv s && bufferInv s.params s.stage && bufferInv s.params s.seg

/-- Every address below `n` has been written. -/
def written (n : Nat) (m : Memory) : Bool := (List.range n).all (fun a => (Memory.read? a m).isSome)

/-- How many window positions lie below `pos`: the number of bytes of this frame staged so far (R75). -/
def stagedCount (s : State) : Nat := min s.pos.toNat s.params.winHi - s.params.winLo

/-- R75 and R222: while a frame arrives, every window byte met so far is in `stage`; in VALID every byte of `seg` has been
written. -/
def State.covered (s : State) : Bool :=
  match s.state with
  | .bodyPending | .checksumPending => written (stagedCount s) s.stage
  | .valid => written s.params.segBytes s.seg
  | .hunting | .synced | .lenPending | .draining => true

/-- The engine is between frames with nothing remembered: HUNTING, every per-cycle register 0 (R39). -/
def freshHunt (s : State) : Bool := s.state == .hunting && !s.prevValid && s.prev == 0 && cycleClear s

/-- The state after the clock edges with the inputs `ins`, one step each, or where one of them stopped; what stood in the
stimulus stays behind them. -/
def runInputs : List PortInputs → State → Result
  | [], s => .next s
  | inp :: ins, s => thenDo (step (s.pushInputs inp)) (runInputs ins)

/-- Bytes with ticks between them: before each byte as many cycles with a tick only as its gap says (R229). -/
def paced : List Nat → List Byte → List PortInputs
  | g :: gs, b :: bs => List.replicate g PortInputs.tickOnly ++ PortInputs.offer b :: paced gs bs
  | _, _ => []

/-- The number of ticks in some clock cycles. -/
def tickCount (ins : List PortInputs) : Nat := ins.countP (·.tick)

/-- An environment: what it puts on the input ports at each coming clock edge, edge 0 first (R8, R13). -/
abbrev Environment := Nat → PortInputs

/-- The inputs of the first `n` clock edges. -/
def Environment.first (env : Environment) (n : Nat) : List PortInputs := (List.range n).map env

/-- `frame_valid` is 1 in clock cycle `n` of the run that begins in `s`. -/
def Environment.FrameShown (env : Environment) (s : State) (n : Nat) : Prop :=
  ∃ t, runInputs (env.first n) s = .next t ∧ frameValid t = true

/-- `frame_valid` rises to 1 in clock cycle `n`; a run that begins with `frame_valid = 1` counts as a rise. -/
def Environment.FrameRises (env : Environment) (s : State) (n : Nat) : Prop :=
  env.FrameShown s n ∧ (n = 0 ∨ ¬ env.FrameShown s (n - 1))

/-- OutputSink's duty, a fairness duty of the environment (R13, R231; DESIGN CHOICE in its form, log 19): it raises
`sink_done` in some clock cycle after each rise of `frame_valid`. The first such cycle is the one in which `frame_valid` shows 1. -/
def Environment.SinkAnswers (env : Environment) (s : State) : Prop :=
  ∀ n, env.FrameRises s n → ∃ m, n ≤ m ∧ (env m).sinkDone = true

/-- The tick source's duty, for claims that a stalled frame is abandoned (R13, R230; DESIGN CHOICE in its form,
log 19): it raises `tick` infinitely often. -/
def Environment.TicksKeepComing (env : Environment) : Prop := ∀ n, ∃ m, n ≤ m ∧ (env m).tick = true

/-- ByteSource's duty (R13, R232; DESIGN CHOICE in its form, log 19): a byte offered and not consumed, for
`rx_ready = 0` or `rst = 1`, is offered again in the next clock cycle. No operation relies on it. -/
def Environment.BytesAreHeld (env : Environment) (s : State) : Prop :=
  ∀ n t, runInputs (env.first n) s = .next t → (env n).rxValid = true → (rxReady t = false ∨ (env n).rst = true) →
    (env (n + 1)).rxValid = true ∧ (env (n + 1)).rxData = (env n).rxData

/-- The receivers `ps` tile `[lo, total)` in order, with no gap and no overlap (R16, R157). R16 does not treat an empty
descriptor (`COUNT_PIXELS = 0`): it covers no pixel, and it may have any offset and stand anywhere in the list (DESIGN CHOICE,
log 20). -/
def tilesFrom (total : Nat) : Nat → List Params → Bool
  | lo, [] => lo == total
  | lo, p :: ps => (p.countPixels == 0 || p.offsetPixels == lo) && p.totalPixels == total &&
    tilesFrom total (lo + p.countPixels) ps

/-- The edges of the transition graph (R190), and staying in a state. -/
def allowedEdge (a b : Control) : Bool :=
  a == b || b == .hunting ||
    match a, b with
    | .hunting, .synced => true
    | .synced, .lenPending => true
    | .lenPending, .bodyPending => true
    | .lenPending, .draining => true
    | .bodyPending, .checksumPending => true
    | .bodyPending, .valid => true
    | .checksumPending, .valid => true
    | _, _ => false

end Sys2Proof.Machine
end

