-- ==== Sys2Proof/Certificates/Slice0/Obligations.lean ====
section
/-! DEFINITION. The statements for the provers, from the numbered rules of `spec/`: first one for each operation (that its
event selects it, and the next state it then gives, which is also its frame), then the frames, the step, the invariants, the
decoder, the datapath, and the runs over many clock cycles. -/

open Sys2Proof Sys2Proof.Machine

/-! ## The operations -/

/-- R220: RESET, selected by `rst = 1` in every state, clears every per-cycle register and the output registers, with the
outputs the rule lists; `seg`, `stage` and everything else are as before. -/
def Obligations.ResetClearsEveryCycleRegister : Prop :=
  ∀ (s : State) (b : Byte),
    let t : State := { s with
      state := .hunting, prevValid := false, prev := 0, lenB0 := 0, len := 0, pos := 0, xorAcc := 0, byteTimer := 0,
      frameTimer := 0, drainCnt := 0, errValid := false, errCode := 0 }
    decodeKey (resetKey s) b = .ok .reset ∧ exec .reset s = .next t ∧
    rxReady t = true ∧ frameValid t = false ∧ stateO t = 0

/-- R111: a byte in HUNTING that does not complete the marker pair takes HUNT_MISS and becomes the candidate. -/
def Obligations.HuntMissRemembersTheByte : Prop :=
  ∀ (s : State) (b : Byte), s.state = .hunting →
    ¬ (s.prevValid = true ∧ s.prev = s.params.marker1 ∧ b = s.params.marker2) →
    decodeKey (byteKey s b) b = .ok (.huntMiss b) ∧
    exec (.huntMiss b) s = .next { s with prev := b, prevValid := true }

/-- R112: the byte that completes the marker pair takes HUNT_SYNC. -/
def Obligations.HuntSyncEntersSynced : Prop :=
  ∀ (s : State) (b : Byte), s.state = .hunting →
    s.prevValid = true → s.prev = s.params.marker1 → b = s.params.marker2 →
    decodeKey (byteKey s b) b = .ok (.huntSync b) ∧
    exec (.huntSync b) s = .next { s with
      state := .synced, prevValid := false, prev := 0, xorAcc := 0, byteTimer := 0 }

/-- R121: any byte in SYNCED takes LEN_B0. -/
def Obligations.LenB0KeepsTheFirstLengthByte : Prop :=
  ∀ (s : State) (b : Byte), s.state = .synced →
    decodeKey (byteKey s b) b = .ok (.lenB0 b) ∧
    exec (.lenB0 b) s = .next { s with
      lenB0 := b, xorAcc := s.xorAcc ^^^ b, byteTimer := 0, state := .lenPending }

/-- R122: the second length byte with the expected declared length takes LEN_B1_OK. -/
def Obligations.LenB1OkEntersTheBody : Prop :=
  ∀ (s : State) (b : Byte), s.state = .lenPending →
    (dlen s b).toNat = s.params.expLen →
    decodeKey (byteKey s b) b = .ok (.lenB1Ok b) ∧
    exec (.lenB1Ok b) s = .next { s with
      len := if s.params.lenBigEndian then s.lenB0 ++ b else b ++ s.lenB0
      xorAcc := s.xorAcc ^^^ b, byteTimer := 0, pos := 0, state := .bodyPending }

/-- R123: a wrong declared length with nothing to drain takes LEN_B1_BAD: HeaderMismatch, code 0, and HUNTING. -/
def Obligations.LenB1BadRaisesHeaderMismatch : Prop :=
  ∀ (s : State) (b : Byte), s.state = .lenPending →
    (dlen s b).toNat ≠ s.params.expLen →
    (s.params.drainEn = false ∨ min (dlen s b).toNat s.params.drainCap = 0) →
    decodeKey (byteKey s b) b = .ok (.lenB1Bad b) ∧
    exec (.lenB1Bad b) s = .next { s with
      state := .hunting, prevValid := false, prev := 0, lenB0 := 0, len := 0, pos := 0, xorAcc := 0, byteTimer := 0,
      frameTimer := 0, drainCnt := 0, errValid := true, errCode := 0 }

/-- R124: a wrong declared length with something to drain takes LEN_B1_DRAIN: HeaderMismatch is reported, and the engine
drains `min(dlen, DRAIN_CAP)` bytes. -/
def Obligations.LenB1DrainReportsAndDrains : Prop :=
  ∀ (s : State) (b : Byte), s.state = .lenPending →
    (dlen s b).toNat ≠ s.params.expLen → s.params.drainEn = true → 0 < min (dlen s b).toNat s.params.drainCap →
    decodeKey (byteKey s b) b = .ok (.lenB1Drain b) ∧
    exec (.lenB1Drain b) s = .next { s with
      len := dlen s b, drainCnt := BitVec.ofNat 16 (min (dlen s b).toNat s.params.drainCap)
      xorAcc := s.xorAcc ^^^ b, byteTimer := 0, state := .draining, errValid := true, errCode := 0 }

/-- R125: a drained byte that is not the last takes DRAIN_BYTE. -/
def Obligations.DrainByteCountsDown : Prop :=
  ∀ (s : State) (b : Byte), s.state = .draining → 1 < s.drainCnt.toNat →
    decodeKey (byteKey s b) b = .ok (.drainByte b) ∧
    exec (.drainByte b) s = .next { s with drainCnt := s.drainCnt - 1, byteTimer := 0 }

/-- R126: the last drained byte takes DRAIN_LAST; nothing is reported. -/
def Obligations.DrainLastReturnsToHunting : Prop :=
  ∀ (s : State) (b : Byte), s.state = .draining → s.drainCnt.toNat = 1 →
    decodeKey (byteKey s b) b = .ok (.drainLast b) ∧
    exec (.drainLast b) s = .next { s with
      state := .hunting, prevValid := false, prev := 0, lenB0 := 0, len := 0, pos := 0, xorAcc := 0, byteTimer := 0,
      frameTimer := 0, drainCnt := 0 }

/-- R150 with R131, R135, R153: a payload byte before the window takes BODY_SKIP. It is folded and counted; after the last
payload byte the engine waits for the checksum byte or, without checksum, accepts. `stage` is not written. -/
def Obligations.BodySkipFoldsAndCounts : Prop :=
  ∀ (s : State) (b : Byte), s.state = .bodyPending → s.pos.toNat < s.params.expLen → s.pos.toNat < s.params.winLo →
    let last := decide (s.pos.toNat + 1 = s.params.expLen)
    let counted : State := { s with
      xorAcc := s.xorAcc ^^^ b, byteTimer := 0, frameTimer := if s.pos = 0 then 0 else s.frameTimer, pos := s.pos + 1 }
    decodeKey (byteKey s b) b = .ok (.bodySkip s.params.csumEn last b) ∧
    exec (.bodySkip s.params.csumEn last b) s = .next (
      if s.pos.toNat + 1 < s.params.expLen then counted
      else if s.params.csumEn then { counted with state := .checksumPending }
      else { s with
        seg := s.stage, state := .valid, prevValid := false, prev := 0, lenB0 := 0, len := 0, pos := 0, xorAcc := 0,
        byteTimer := 0, frameTimer := 0, drainCnt := 0 })

/-- R151 with R131, R135, R153: a payload byte inside the window takes BODY_TAKE: as BODY_SKIP, and the byte is written to
`stage[pos - WIN_LO]`, which an `accept()` of the same step copies. -/
def Obligations.BodyTakeStagesTheByte : Prop :=
  ∀ (s : State) (b : Byte), s.state = .bodyPending → s.pos.toNat < s.params.expLen →
    s.params.winLo ≤ s.pos.toNat → s.pos.toNat < s.params.winHi →
    let last := decide (s.pos.toNat + 1 = s.params.expLen)
    let staged := Memory.write (s.pos.toNat - s.params.winLo) b s.stage
    let counted : State := { s with
      stage := staged
      xorAcc := s.xorAcc ^^^ b, byteTimer := 0, frameTimer := if s.pos = 0 then 0 else s.frameTimer, pos := s.pos + 1 }
    decodeKey (byteKey s b) b = .ok (.bodyTake s.params.csumEn last b) ∧
    exec (.bodyTake s.params.csumEn last b) s = .next (
      if s.pos.toNat + 1 < s.params.expLen then counted
      else if s.params.csumEn then { counted with state := .checksumPending }
      else { s with
        stage := staged, seg := staged, state := .valid, prevValid := false, prev := 0, lenB0 := 0, len := 0, pos := 0,
        xorAcc := 0, byteTimer := 0, frameTimer := 0, drainCnt := 0 })

/-- R152 with R131, R135, R153: a payload byte after the window takes BODY_DROP: as BODY_SKIP. -/
def Obligations.BodyDropFoldsAndCounts : Prop :=
  ∀ (s : State) (b : Byte), s.state = .bodyPending → s.pos.toNat < s.params.expLen → s.params.winHi ≤ s.pos.toNat →
    let last := decide (s.pos.toNat + 1 = s.params.expLen)
    let counted : State := { s with
      xorAcc := s.xorAcc ^^^ b, byteTimer := 0, frameTimer := if s.pos = 0 then 0 else s.frameTimer, pos := s.pos + 1 }
    decodeKey (byteKey s b) b = .ok (.bodyDrop s.params.csumEn last b) ∧
    exec (.bodyDrop s.params.csumEn last b) s = .next (
      if s.pos.toNat + 1 < s.params.expLen then counted
      else if s.params.csumEn then { counted with state := .checksumPending }
      else { s with
        seg := s.stage, state := .valid, prevValid := false, prev := 0, lenB0 := 0, len := 0, pos := 0, xorAcc := 0,
        byteTimer := 0, frameTimer := 0, drainCnt := 0 })

/-- R136 with R153: the checksum byte that equals the fold takes CSUM_OK, which runs `accept()`; with `CSUM_EN` no other
operation enters VALID. -/
def Obligations.CsumOkAcceptsTheFrame : Prop :=
  (∀ (s : State) (b : Byte), s.state = .checksumPending → b = s.xorAcc →
    decodeKey (byteKey s b) b = .ok (.csumOk b) ∧
    exec (.csumOk b) s = .next { s with
      seg := s.stage, state := .valid, prevValid := false, prev := 0, lenB0 := 0, len := 0, pos := 0, xorAcc := 0,
      byteTimer := 0, frameTimer := 0, drainCnt := 0 }) ∧
  ∀ (i : Instr) (s t : State), s.params.csumEn = true → exec i s = .next t → s.state ≠ .valid → t.state = .valid →
    ∃ b, i = .csumOk b

/-- R137: a checksum byte that differs takes CSUM_BAD: ChecksumMismatch, code 3, and HUNTING; `seg` as before. -/
def Obligations.CsumBadRaisesChecksumMismatch : Prop :=
  ∀ (s : State) (b : Byte), s.state = .checksumPending → b ≠ s.xorAcc →
    decodeKey (byteKey s b) b = .ok (.csumBad b) ∧
    exec (.csumBad b) s = .next { s with
      state := .hunting, prevValid := false, prev := 0, lenB0 := 0, len := 0, pos := 0, xorAcc := 0, byteTimer := 0,
      frameTimer := 0, drainCnt := 0, errValid := true, errCode := 3 }

/-- R172: a tick in HUNTING or VALID takes TICK_IDLE and changes no register. -/
def Obligations.TickIdleChangesNothing : Prop :=
  ∀ (s : State) (b : Byte), s.state = .hunting ∨ s.state = .valid →
    decodeKey (tickKey s) b = .ok .tickIdle ∧ exec .tickIdle s = .next s

/-- R173: a tick in a timed state with no expiry takes TICK_COUNT. -/
def Obligations.TickCountCountsTheRunningTimers : Prop :=
  ∀ (s : State) (b : Byte), s.state ≠ .hunting → s.state ≠ .valid →
    s.byteTimer.toNat + 1 < s.params.byteTimeout →
    (frameRun s = false ∨ s.frameTimer.toNat + 1 < s.params.frameTimeout) →
    decodeKey (tickKey s) b = .ok .tickCount ∧
    exec .tickCount s = .next { s with
      byteTimer := s.byteTimer + 1
      frameTimer :=
        if (s.state = .bodyPending ∧ 1 ≤ s.pos.toNat) ∨ s.state = .checksumPending then s.frameTimer + 1
        else s.frameTimer }

/-- R174: a tick that brings the byte timer to `BYTE_TIMEOUT`, and not the frame timer to its limit, takes TICK_RTO:
ReadTimeout, code 1, and HUNTING. -/
def Obligations.TickRtoRaisesReadTimeout : Prop :=
  ∀ (s : State) (b : Byte), s.state ≠ .hunting → s.state ≠ .valid →
    s.params.byteTimeout ≤ s.byteTimer.toNat + 1 →
    (frameRun s = false ∨ s.frameTimer.toNat + 1 < s.params.frameTimeout) →
    decodeKey (tickKey s) b = .ok .tickRto ∧
    exec .tickRto s = .next { s with
      state := .hunting, prevValid := false, prev := 0, lenB0 := 0, len := 0, pos := 0, xorAcc := 0, byteTimer := 0,
      frameTimer := 0, drainCnt := 0, errValid := true, errCode := 1 }

/-- R175: a tick that brings the running frame timer to `FRAME_TIMEOUT` takes TICK_PTO, whatever the byte timer does:
PayloadTimeout, code 2, and HUNTING. -/
def Obligations.TickPtoRaisesPayloadTimeout : Prop :=
  ∀ (s : State) (b : Byte), (s.state = .bodyPending ∧ 1 ≤ s.pos.toNat) ∨ s.state = .checksumPending →
    s.params.frameTimeout ≤ s.frameTimer.toNat + 1 →
    decodeKey (tickKey s) b = .ok .tickPto ∧
    exec .tickPto s = .next { s with
      state := .hunting, prevValid := false, prev := 0, lenB0 := 0, len := 0, pos := 0, xorAcc := 0, byteTimer := 0,
      frameTimer := 0, drainCnt := 0, errValid := true, errCode := 2 }

/-- R154: `sink_done` in a clock cycle that began in VALID takes SINK_DONE: HUNTING; `seg` is not changed. -/
def Obligations.SinkDoneEndsTheReceiveCycle : Prop :=
  ∀ (start s : State) (b : Byte), start.state = .valid → s.state = .valid →
    decodeKey (sinkKey start s) b = .ok .sinkDone ∧
    exec .sinkDone s = .next { s with
      state := .hunting, prevValid := false, prev := 0, lenB0 := 0, len := 0, pos := 0, xorAcc := 0, byteTimer := 0,
      frameTimer := 0, drainCnt := 0 }

/-- R155: `sink_done` in a clock cycle that began outside VALID takes SINK_IGN and changes no register. -/
def Obligations.SinkIgnChangesNothing : Prop :=
  ∀ (start s : State) (b : Byte), start.state ≠ .valid →
    decodeKey (sinkKey start s) b = .ok .sinkIgn ∧ exec .sinkIgn s = .next s

/-- In a state that meets the invariants an operation of the BYTE or the TICK class, and SINK_DONE, runs exactly where its
event's key selects it (R93, R94); elsewhere "no rule gives them an effect" and the model refuses it by name: the model's
reading of R94 and U7, log entry 9. The two operations without such a stop run in every state: RESET, which is selected in
every state, and SINK_IGN, whose key speaks of the start of the clock cycle (log entry 12). -/
def Obligations.OperationsRunWhereTheirKeySelectsThem : Prop :=
  ∀ (i : Instr) (s : State), s.inv = true →
    (∀ b, i.operand = some b →
      (s.state ≠ .valid ∧ decodeKey (byteKey s b) b = .ok i → ∃ t, exec i s = .next t) ∧
      (¬ (s.state ≠ .valid ∧ decodeKey (byteKey s b) b = .ok i) → exec i s = .refused .notSelected)) ∧
    (i = .tickIdle ∨ i = .tickCount ∨ i = .tickRto ∨ i = .tickPto →
      (decodeKey (tickKey s) 0 = .ok i → ∃ t, exec i s = .next t) ∧
      (decodeKey (tickKey s) 0 ≠ .ok i → exec i s = .refused .notSelected)) ∧
    (decodeKey (sinkKey s s) 0 = .ok .sinkDone → ∃ t, exec .sinkDone s = .next t) ∧
    (decodeKey (sinkKey s s) 0 ≠ .ok .sinkDone → exec .sinkDone s = .refused .notSelected) ∧
    decodeKey (resetKey s) 0 = .ok .reset ∧ (∃ t, exec .reset s = .next t) ∧
    (decodeKey (sinkKey s s) 0 = .ok .sinkIgn ↔ s.state ≠ .valid) ∧ (∃ t, exec .sinkIgn s = .next t)

/-! ## Frames of the operations -/

/-- R30, R31, R76: no operation but BODY_TAKE writes `stage`; `seg` changes only by being replaced by `stage` on entry to
VALID. -/
def Obligations.BuffersAreWrittenOnlyByTakeAndAccept : Prop :=
  ∀ (i : Instr) (s t : State), exec i s = .next t →
    ((∀ c l b, i ≠ .bodyTake c l b) → t.stage = s.stage) ∧
    (t.seg = s.seg ∨ (s.state ≠ .valid ∧ t.state = .valid ∧ t.seg = t.stage))

/-- R69, R151: BODY_TAKE writes the one address `pos - WIN_LO` of `stage`, below `SEG_BYTES`; every other address reads as
before. -/
def Obligations.BodyTakeWritesOneStageByte : Prop :=
  ∀ (c l : Bool) (b : Byte) (s t : State), exec (.bodyTake c l b) s = .next t →
    stageAddress s = s.pos.toNat - s.params.winLo ∧ stageAddress s < s.params.segBytes ∧
    Memory.read? (stageAddress s) t.stage = some b ∧
    ∀ a, a ≠ stageAddress s → Memory.read? a t.stage = Memory.read? a s.stage

/-- R190: every operation follows an edge of the transition graph or leaves `state` unchanged. -/
def Obligations.OperationsFollowTheTransitionGraph : Prop :=
  ∀ (i : Instr) (s t : State), exec i s = .next t → allowedEdge s.state t.state = true

/-- R190, R195: only the five reporting operations turn `err_valid` on, each with the code of its failure kind. -/
def Obligations.ReportsComeFromTheirOperations : Prop :=
  ∀ (i : Instr) (s t : State), exec i s = .next t → s.errValid = false → t.errValid = true →
    (((∃ b, i = .lenB1Bad b) ∨ (∃ b, i = .lenB1Drain b)) ∧ t.errCode = 0) ∨
    (i = .tickRto ∧ t.errCode = 1) ∨ (i = .tickPto ∧ t.errCode = 2) ∨ ((∃ b, i = .csumBad b) ∧ t.errCode = 3)

/-! ## The step -/

/-- A step in whose clock cycle one event happens runs the operation its key selects, on the state with the inputs used up
and the output registers cleared. -/
def Obligations.StepRunsTheSelectedOperation : Prop :=
  ∀ (s : State) (inp : PortInputs) (i : Instr),
    s.params.legal = true → sampledInputs s = inp →
    let e : State := { s with errValid := false, errCode := 0, stimulus := s.stimulus.tail, clock := s.clock + 1 }
    (inp.rst = true → decodeKey (resetKey e) 0 = .ok i → step s = exec i e) ∧
    (inp.rst = false → inp.tick = true → inp.rxValid = false → inp.sinkDone = false →
      decodeKey (tickKey e) 0 = .ok i → step s = exec i e) ∧
    (inp.rst = false → inp.tick = false → inp.rxValid = true → s.state ≠ .valid → inp.sinkDone = false →
      decodeKey (byteKey e inp.rxData) inp.rxData = .ok i → step s = exec i e) ∧
    (inp.rst = false → inp.tick = false → inp.rxValid = false → inp.sinkDone = true →
      decodeKey (sinkKey e e) 0 = .ok i → step s = exec i e)

/-- R176: with `rst = 1` a step is RESET; else the events of the clock cycle act in the order TICK, BYTE, SINK, where the BYTE
operation is chosen by the state after the tick, and `rx_ready` and the VALID test of SINK use the state at the start of the
cycle. The output registers start the step cleared, so they show a report exactly where an operation of this step makes
one. -/
def Obligations.StepComposesTickByteSink : Prop :=
  ∀ (s s1 s2 s3 : State) (inp : PortInputs) (i1 i2 i3 : Instr),
    s.params.legal = true → sampledInputs s = inp →
    let e : State := { s with errValid := false, errCode := 0, stimulus := s.stimulus.tail, clock := s.clock + 1 }
    (inp.rst = true → step s = exec .reset e) ∧
    (inp.rst = false →
      (if inp.tick then decodeKey (tickKey e) 0 = .ok i1 ∧ exec i1 e = .next s1 else s1 = e) →
      (if inp.rxValid && s.state != .valid then
        decodeKey (byteKey s1 inp.rxData) inp.rxData = .ok i2 ∧ exec i2 s1 = .next s2 else s2 = s1) →
      (if inp.sinkDone then decodeKey (sinkKey s s2) 0 = .ok i3 ∧ exec i3 s2 = .next s3 else s3 = s2) →
      step s = .next s3)

/-- R221, R220: with `rst = 1` the other inputs are ignored: no byte is consumed and nothing is reported. -/
def Obligations.ResetDominatesTheInputs : Prop :=
  ∀ (s : State) (inp : PortInputs),
    s.params.legal = true → sampledInputs s = inp → inp.rst = true →
    step s = .next { s with
      state := .hunting, prevValid := false, prev := 0, lenB0 := 0, len := 0, pos := 0, xorAcc := 0, byteTimer := 0,
      frameTimer := 0, drainCnt := 0, errValid := false, errCode := 0, stimulus := s.stimulus.tail, clock := s.clock + 1 }

/-- R177: a clock cycle with no reset, no tick, no byte consumed and no effective `sink_done` leaves every register unchanged
except that the output registers are cleared. -/
def Obligations.IdleCycleOnlyClearsTheReport : Prop :=
  ∀ (s : State) (inp : PortInputs),
    s.params.legal = true → sampledInputs s = inp → inp.rst = false → inp.tick = false →
    (inp.rxValid = false ∨ s.state = .valid) → (inp.sinkDone = false ∨ s.state ≠ .valid) →
    step s = .next { s with errValid := false, errCode := 0, stimulus := s.stimulus.tail, clock := s.clock + 1 }

/-- R176 (d), R154, R231: in VALID only `sink_done` matters: `tick` and an offered byte have no effect. No step of the
engine's own ends VALID: only `sink_done` or `rst` does, and without them it hangs there with `seg` on show. Under OutputSink's
fairness duty, that `sink_done` comes after each rise of `frame_valid` (R13; its form: log entry 19), VALID ends in HUNTING with `seg` unchanged. -/
def Obligations.ValidWaitsForSinkDone : Prop :=
  (∀ (s : State) (inp : PortInputs),
    s.params.legal = true → sampledInputs s = inp → inp.rst = false → s.state = .valid →
    let e : State := { s with errValid := false, errCode := 0, stimulus := s.stimulus.tail, clock := s.clock + 1 }
    step s = .next (if inp.sinkDone then
      { e with
        state := .hunting, prevValid := false, prev := 0, lenB0 := 0, len := 0, pos := 0, xorAcc := 0, byteTimer := 0,
        frameTimer := 0, drainCnt := 0 }
      else e)) ∧
  (∀ s t : State, step s = .next t → s.state = .valid → t.state ≠ .valid →
    (sampledInputs s).rst = true ∨ (sampledInputs s).sinkDone = true) ∧
  (∀ (s : State) (ins : List PortInputs),
    s.params.legal = true → s.state = .valid → (∀ i ∈ ins, i.rst = false ∧ i.sinkDone = false) →
    ∃ t, runInputs ins s = .next t ∧ t.state = .valid ∧ t.seg = s.seg ∧ rxReady t = false) ∧
  ∀ (s : State) (env : Environment),
    s.params.legal = true → s.state = .valid → env.SinkAnswers s →
    ∃ n t, runInputs (env.first n) s = .next t ∧ t.state = .hunting ∧ t.seg = s.seg

/-- R5, R8: a step changes no parameter, uses up one entry of the stimulus, and is one clock edge. -/
def Obligations.StepKeepsTheParameters : Prop :=
  ∀ (s t : State), step s = .next t →
    t.params = s.params ∧ t.stimulus = s.stimulus.tail ∧ t.clock = s.clock + 1

/-- R161, R76, R71: a step leaves `seg` as it is, or enters VALID from another state and replaces it whole by the staging
buffer, with nothing reported. -/
def Obligations.LastGoodSegmentIsKept : Prop :=
  ∀ (s t : State), step s = .next t →
    t.seg = s.seg ∨ (s.state ≠ .valid ∧ t.state = .valid ∧ t.seg = t.stage ∧ t.errValid = false)

/-- R32, R178, R195: `err_valid` is 1 after a step exactly where a reporting operation ran in it: the step samples `rst = 0` and
its tick selects TICK_RTO or TICK_PTO, or its byte selects LEN_B1_BAD, LEN_B1_DRAIN or CSUM_BAD. So a report lasts one clock
cycle, unless the next step reports again. After a step that reports, the engine is in HUNTING, or in DRAINING with code 0;
after a step that reports nothing the code is 0; VALID is never entered or kept with a report. -/
def Obligations.ReportsArePulses : Prop :=
  ∀ (s t : State), step s = .next t →
    let inp := sampledInputs s
    let b := inp.rxData
    (t.errValid = true ↔ inp.rst = false ∧
      ((inp.tick = true ∧ (decodeKey (tickKey s) 0 = .ok .tickRto ∨ decodeKey (tickKey s) 0 = .ok .tickPto)) ∨
       (inp.rxValid = true ∧ s.state ≠ .valid ∧
        (decodeKey (byteKey s b) b = .ok (.lenB1Bad b) ∨ decodeKey (byteKey s b) b = .ok (.lenB1Drain b) ∨
          decodeKey (byteKey s b) b = .ok (.csumBad b))))) ∧
    (t.errValid = true → t.state = .hunting ∨ (t.state = .draining ∧ t.errCode = 0)) ∧
    (t.errValid = false → t.errCode = 0)

/-- R6, R223: an illegal parameter record yields no engine and no step; a legal one yields the engine after reset. -/
def Obligations.IllegalParametersAreRefused : Prop :=
  ∀ (s : State) (p : Params),
    (¬ (s.params.offsetPixels + s.params.countPixels ≤ s.params.totalPixels ∧ 1 ≤ s.params.totalPixels ∧
        3 * s.params.totalPixels ≤ 65535 ∧ 1 ≤ s.params.byteTimeout ∧ s.params.byteTimeout ≤ 65535 ∧
        1 ≤ s.params.frameTimeout ∧ s.params.frameTimeout ≤ 65535 ∧ s.params.drainCap ≤ 65535) →
      step s = .refused .illegalParameters) ∧
    State.build p =
      if p.offsetPixels + p.countPixels ≤ p.totalPixels ∧ 1 ≤ p.totalPixels ∧ 3 * p.totalPixels ≤ 65535 ∧
        1 ≤ p.byteTimeout ∧ p.byteTimeout ≤ 65535 ∧ 1 ≤ p.frameTimeout ∧ p.frameTimeout ≤ 65535 ∧ p.drainCap ≤ 65535
      then some (State.powerOn p) else none

/-- R35, R36, R37, R21: the output ports are functions of the state; `state_o` shows the codes of R21, and `seg_rd_data` packs
red, green, blue from the top. -/
def Obligations.OutputPortsShowTheState : Prop :=
  ∀ (s : State) (a : Nat),
    (rxReady s = true ↔ s.state ≠ .valid) ∧ (frameValid s = true ↔ s.state = .valid) ∧
    (outputs s a).rxReady = rxReady s ∧ (outputs s a).frameValid = frameValid s ∧ (outputs s a).stateO = stateO s ∧
    (outputs s a).segRdData = segRdData s a ∧
    (stateO s = 0b000 ↔ s.state = .hunting) ∧ (stateO s = 0b001 ↔ s.state = .synced) ∧
    (stateO s = 0b010 ↔ s.state = .lenPending) ∧ (stateO s = 0b011 ↔ s.state = .bodyPending) ∧
    (stateO s = 0b100 ↔ s.state = .checksumPending) ∧ (stateO s = 0b101 ↔ s.state = .valid) ∧
    (stateO s = 0b110 ↔ s.state = .draining) ∧ stateO s ≠ 0b111 ∧
    (outputs s a).errValid = s.errValid ∧ (outputs s a).errCode = s.errCode ∧
    (a < s.params.countPixels →
      (segRdData s a).extractLsb' 16 8 = segByte s (3 * a) ∧
      (segRdData s a).extractLsb' 8 8 = segByte s (3 * a + 1) ∧
      (segRdData s a).extractLsb' 0 8 = segByte s (3 * a + 2)) ∧
    ∀ (j : Nat) (b : Byte), Memory.read? j s.seg = some b → segByte s j = b

/-! ## Reset and the invariants -/

/-- R220: what reset leaves, whatever the parameters. R220 and R222 call the contents of `stage` and `seg` at power-up
unspecified: that no byte of them is listed, so that each reads as a free value, is the model's choice (log entry 6). -/
def Obligations.ResetStateIsTheSpecs : Prop :=
  ∀ (p : Params),
    let s := State.powerOn p
    s.state = .hunting ∧ s.prevValid = false ∧ s.prev = 0 ∧ s.lenB0 = 0 ∧ s.len = 0 ∧ s.pos = 0 ∧ s.xorAcc = 0 ∧
    s.byteTimer = 0 ∧ s.frameTimer = 0 ∧ s.drainCnt = 0 ∧ s.errValid = false ∧ s.errCode = 0 ∧
    (∀ a, Memory.read? a s.stage = none ∧ Memory.read? a s.seg = none) ∧
    rxReady s = true ∧ frameValid s = false ∧ stateO s = 0

/-- R40, R220: the invariants hold of an engine right after reset, whatever its legal parameters, and of `State.reset`,
whose parameters are the model's choice (log entry 2). -/
def Obligations.InvariantsHoldAtReset : Prop :=
  (∀ p : Params, p.legal = true → (State.powerOn p).inv = true ∧ (State.powerOn p).covered = true) ∧
  State.reset.inv = true ∧ State.reset.covered = true

/-- R40, R29: every step keeps the invariants. -/
def Obligations.StepKeepsTheInvariants : Prop :=
  ∀ (s t : State), s.inv = true → step s = .next t → t.inv = true

/-- R14, R94, R178: from a state that meets the invariants the engine never stops: a step gives a next state, whatever the
inputs. -/
def Obligations.EngineNeverStops : Prop :=
  ∀ s : State, s.inv = true → ∃ t, step s = .next t

/-- R75, R222: every step keeps the staging buffer written at every window position met so far, and `seg` written at every
address while in VALID. -/
def Obligations.StepKeepsTheWindowStaged : Prop :=
  ∀ (s t : State), s.inv = true → s.covered = true → step s = .next t → t.covered = true

/-- The corner cases of R112, R124, R125, R126, R150 to R152, R173, R194: the operation selected in a state that meets the
invariants is one that can occur with the engine's parameters. -/
def Obligations.SelectedOperationsFitTheParameters : Prop :=
  ∀ (s : State) (b : Byte) (i : Instr), s.inv = true →
    (s.state ≠ .valid → decodeKey (byteKey s b) b = .ok i → i.wellFormed s.params = true) ∧
    (decodeKey (tickKey s) b = .ok i → i.wellFormed s.params = true)

/-! ## Decoding -/

/-- Decoding the encoding of any operation gives it back, with every operand, and leaves the bytes after it. -/
def Obligations.DecodeOfEncodeIsTheInstruction : Prop :=
  ∀ (i : Instr) (rest : List Byte), decode (encode i ++ rest) = .ok (i, rest)

/-- R93: exactly one row of the operation map matches a key that can occur. -/
def Obligations.EachKeySelectsOneRow : Prop :=
  ∀ k : BitVec 10, keyImpossible k = false →
    ∃ r, opRows.filter (·.matchesKey k) = [r] ∧ ∀ b, decodeKey k b = .ok (r.build (keyC k 3) (keyC k 2) b)

/-- R94: the decoder answers "no operation" for the keys that cannot occur, and for no other. -/
def Obligations.ImpossibleKeysSelectNothing : Prop :=
  ∀ (k : BitVec 10) (b : Byte),
    decodeKey k b = .error (.noOperation k) ↔
      keyRst k = false ∧
        (keyEv k = 0b11 ∨ (keyEv k = 0b00 ∧ keySt k = 5) ∨ keySt k = 7 ∨
          (keyEv k = 0b00 ∧ keySt k = 3 ∧ keyC k 1 = true ∧ keyC k 0 = true) ∨
          (keyEv k = 0b01 ∧ keyC k 2 = false ∧ (keyC k 1 = true ∨ keyC k 0 = true)))

/-- Some words of the operation map, written out from the patterns of R93 and the vectors K1 to K14. -/
def Obligations.WordsOfTheMapDecode : Prop :=
  decodeTableWord 16 0b1000000000 = some .reset ∧
  decodeTableWord 24 0b010101010000000000000001 = some (.huntSync 0x55) ∧
  decodeTableWord 24 0b000000000000000000101001 = some (.lenB1Ok 0x00) ∧
  decodeTableWord 24 0b001000000000000000111001 = some (.bodyTake true false 0x20) ∧
  decodeTableWord 24 0b010011000000000001000001 = some (.csumOk 0x4C) ∧
  decodeTableWord 16 0b0010110111 = some .tickPto ∧
  decodeTableWord 16 0b0101010001 = some .sinkDone ∧
  decodeTableWord 16 0b0110000000 = none

/-! ## The datapath -/

/-- R82, R62, R85: the value of the declared length in both byte orders, and the two bytes a sender writes for a length give
that length back. -/
def Obligations.LengthFieldIsAssembledInItsByteOrder : Prop :=
  (∀ b0 b1 : Byte,
    (assembleLen true b0 b1).toNat = 256 * b0.toNat + b1.toNat ∧
    (assembleLen false b0 b1).toNat = b0.toNat + 256 * b1.toNat) ∧
  ∀ (p : Params) (n : Nat) (b0 b1 : Byte), n < 65536 → p.lenBytes n = [b0, b1] →
    (assembleLen p.lenBigEndian b0 b1).toNat = n

/-- R68, R69, R38: every payload position is before, inside or after the window, and exactly the positions inside have a
staging address, which lies below `SEG_BYTES`. -/
def Obligations.WindowTranslationCoversTheWindow : Prop :=
  ∀ (p : Params) (n : Nat),
    (windowAt p n = .skip ↔ n < p.winLo) ∧ (windowAt p n = .take ↔ p.winLo ≤ n ∧ n < p.winHi) ∧
    (windowAt p n = .drop ↔ p.winHi ≤ n) ∧
    (∀ a, stageAddress? p n = some a ↔ windowAt p n = .take ∧ a = n - p.winLo) ∧
    (∀ a, stageAddress? p n = some a → a < p.segBytes) ∧
    ∀ a, a < p.segBytes → ∃ m, stageAddress? p m = some a

/-- R138, R64: changing one byte of a range by `e` changes the fold by `e`, two equal changes cancel, and the order of two
parts does not matter. -/
def Obligations.XorFoldSeesEverySingleChange : Prop :=
  ∀ (xs ys zs : List Byte) (x y e : Byte),
    xorFold (xs ++ (x ^^^ e) :: ys) = xorFold (xs ++ x :: ys) ^^^ e ∧
    xorFold (xs ++ (x ^^^ e) :: ys ++ (y ^^^ e) :: zs) = xorFold (xs ++ x :: ys ++ y :: zs) ∧
    xorFold (xs ++ ys) = xorFold (ys ++ xs)

/-! ## Runs -/

/-- R14, R176: running over given inputs is the machine's own run with these inputs placed before its stimulus. -/
def Obligations.RunOverInputsIsTheMachineRunning : Prop :=
  ∀ (ins : List PortInputs) (s : State),
    Sys2Proof.core.run ins.length { s with stimulus := ins ++ s.stimulus } = runInputs ins s

/-- R113, R110: an engine that hunts syncs at the first position where `MARKER1, MARKER2` stand adjacent in the bytes of this
hunt, and not before. -/
def Obligations.HuntSyncsAtTheFirstMarkerPair : Prop :=
  ∀ (s : State) (bytes : List Byte) (b : Byte),
    s.inv = true → s.state = .hunting → s.prevValid = false → ¬ s.params.mark <:+: bytes →
    ∃ t, runInputs (offerAll (bytes ++ [b])) s = .next t ∧
      (t.state = .synced ∨ t.state = .hunting) ∧ (t.state = .synced ↔ s.params.mark <:+ bytes ++ [b])

/-- R114, R172: no silence, however long, changes anything in HUNTING but the output registers; ReadTimeout is never raised
there. -/
def Obligations.HuntingSurvivesAnySilence : Prop :=
  ∀ (s : State) (n : Nat), s.inv = true → s.state = .hunting → s.errValid = false →
    runInputs (List.replicate n PortInputs.tickOnly) s = .next { s with clock := s.clock + n }

/-- R174, R132: in a timed state where the frame timer does not run, ticks without a byte count the byte timer up, and exactly
the tick that reaches `BYTE_TIMEOUT` raises ReadTimeout. -/
def Obligations.ReadTimeoutComesAtTheLastTick : Prop :=
  ∀ (s : State) (n : Nat), s.inv = true → timed s = true → frameRun s = false →
    (s.byteTimer.toNat + n < s.params.byteTimeout →
      ∃ t, runInputs (List.replicate n PortInputs.tickOnly) s = .next t ∧
        t.state = s.state ∧ t.byteTimer.toNat = s.byteTimer.toNat + n) ∧
    (s.byteTimer.toNat + n = s.params.byteTimeout →
      ∃ t, runInputs (List.replicate n PortInputs.tickOnly) s = .next t ∧
        t.state = .hunting ∧ t.errValid = true ∧ t.errCode = 1 ∧ t.seg = s.seg)

/-- R132, R174, R175: a stream that stops in the middle of a packet is abandoned: after as many ticks without a byte as the
byte timer lacks, or more, the engine is in HUNTING and `seg` is unchanged. -/
def Obligations.TruncatedFrameIsAbandoned : Prop :=
  ∀ (s : State) (n : Nat), s.inv = true → timed s = true → s.params.byteTimeout ≤ s.byteTimer.toNat + n →
    ∃ t, runInputs (List.replicate n PortInputs.tickOnly) s = .next t ∧ t.state = .hunting ∧ t.seg = s.seg

/-- R179: whatever the bytes do, a receive cycle in SYNCED reaches VALID or HUNTING within the bound on ticks; so it does under
every environment that meets the tick source's fairness duty (R13, R230; its form: log entry 19). -/
def Obligations.ReceiveCycleIsBoundedInTicks : Prop :=
  (∀ (s : State) (ins : List PortInputs), s.inv = true → s.state = .synced → (∀ i ∈ ins, i.rst = false) →
    2 * s.params.byteTimeout +
        max (s.params.byteTimeout + s.params.frameTimeout) (s.params.drainCap * s.params.byteTimeout) ≤ tickCount ins →
    ∃ pre t, pre <+: ins ∧ runInputs pre s = .next t ∧ (t.state = .hunting ∨ t.state = .valid)) ∧
  ∀ (s : State) (env : Environment), s.inv = true → s.state = .synced → env.TicksKeepComing → (∀ n, (env n).rst = false) →
    ∃ n t, runInputs (env.first n) s = .next t ∧ (t.state = .hunting ∨ t.state = .valid)

/-- R229, R224, R156: a healthy sender is accepted: from a fresh hunt, a packet whose gaps from `MARKER2` on are shorter than
`BYTE_TIMEOUT` ticks and whose bytes after payload byte 0 come within fewer than `FRAME_TIMEOUT` ticks ends in VALID, and
`seg` then shows the payload's window. -/
def Obligations.HealthySenderIsAccepted : Prop :=
  ∀ (s : State) (payload : List Byte) (gaps : List Nat),
    s.inv = true → s.state = .hunting → s.prevValid = false → payload.length = s.params.expLen →
    gaps.length = (s.params.frame payload).length →
    (∀ g ∈ gaps.drop 2, g < s.params.byteTimeout) → (gaps.drop 5).sum < s.params.frameTimeout →
    ∃ t, runInputs (paced gaps (s.params.frame payload)) s = .next t ∧
      t.state = .valid ∧ t.errValid = false ∧ segContents t = s.params.windowOf payload

/-- R137, R138, R161: with checksum, a packet with one payload byte changed in transit ends in ChecksumMismatch, in HUNTING,
with `seg` unchanged. -/
def Obligations.CorruptedPayloadByteIsRejected : Prop :=
  ∀ (s : State) (before after : List Byte) (d e : Byte),
    s.inv = true → s.state = .hunting → s.prevValid = false → s.params.csumEn = true →
    (before ++ d :: after).length = s.params.expLen → e ≠ 0 →
    ∃ t, runInputs
        (offerAll (s.params.frameWith (before ++ (d ^^^ e) :: after) (s.params.checksum (before ++ d :: after)))) s
          = .next t ∧
      t.state = .hunting ∧ t.errValid = true ∧ t.errCode = 3 ∧ t.seg = s.seg

/-- R157, R16: receivers whose descriptors tile the frame in order and that all receive the same good packet end in VALID,
and their segments, one after the other, are the payload. Receivers with an empty descriptor may stand anywhere among them,
which is the model's reading of R16 (log entry 20). -/
def Obligations.SegmentsOfATilingMakeThePayload : Prop :=
  ∀ (engines : List State) (total : Nat) (payload packet : List Byte),
    tilesFrom total 0 (engines.map (·.params)) = true → payload.length = 3 * total →
    (∀ s ∈ engines, s.inv = true ∧ s.state = .hunting ∧ s.prevValid = false ∧ s.params.frame payload = packet) →
    ∃ after : List State,
      List.Forall₂ (fun s t => runInputs (offerAll packet) s = .next t ∧ t.state = .valid) engines after ∧
      after.flatMap segContents = payload

/-- R160: after an accepted packet `seg` depends on the payload alone, not on the old `seg`, the old `stage` or anything kept
from earlier: two engines with the same parameters show equal data, and so does one engine that gets the packet twice. -/
def Obligations.AcceptedSegmentDependsOnThePayloadOnly : Prop :=
  ∀ (s s' : State) (payload : List Byte),
    s.inv = true → s.state = .hunting → s.prevValid = false →
    s'.inv = true → s'.state = .hunting → s'.prevValid = false → s'.params = s.params →
    payload.length = s.params.expLen →
    ∃ t t' u, runInputs (offerAll (s.params.frame payload)) s = .next t ∧
      runInputs (offerAll (s.params.frame payload)) s' = .next t' ∧
      runInputs (offerAll (s.params.frame payload) ++ PortInputs.sinkOnly :: offerAll (s.params.frame payload)) s
        = .next u ∧
      t.state = .valid ∧ t'.state = .valid ∧ u.state = .valid ∧ t'.seg = t.seg ∧ u.seg = t.seg

/-- R75: what an earlier frame left in `stage` cannot be observed: two engines in one state, not inside a payload, that
differ in `stage` alone show the same output ports after any inputs. At or above `COUNT_PIXELS`, where R37 leaves `seg_rd_data`
open, that they show the same value is the model's choice: its free value depends on clock and address alone (log entry 7). So is,
for a byte of `seg` that nothing has written, that both show the same one (log entry 6). -/
def Obligations.StaleStagingBytesAreUnobservable : Prop :=
  ∀ (s : State) (other : Memory) (ins : List PortInputs) (a : Nat),
    s.inv = true → State.inv { s with stage := other } = true → s.state ≠ .bodyPending → s.state ≠ .checksumPending →
    ∃ t t', runInputs ins s = .next t ∧ runInputs ins { s with stage := other } = .next t' ∧
      t'.seg = t.seg ∧ outputs t' a = outputs t a

/-- R234: a sender that differs in `LEN_BIG_ENDIAN` fails with HeaderMismatch, unless both bytes of the expected length are
equal: then its header is taken as good. -/
def Obligations.OtherByteOrderIsAHeaderMismatch : Prop :=
  ∀ (s : State), s.inv = true → s.state = .hunting → s.prevValid = false →
    let skewed : Params := { s.params with lenBigEndian := !s.params.lenBigEndian }
    ∃ t, runInputs (offerAll (s.params.mark ++ skewed.lenBytes s.params.expLen)) s = .next t ∧
      if s.params.expLen / 256 = s.params.expLen % 256 then t.state = .bodyPending ∧ t.errValid = false
      else (t.state = .hunting ∨ t.state = .draining) ∧ t.errValid = true ∧ t.errCode = 0
end

