-- ==== Sys2Proof/Laws/Memory.lean ====
section
/-! SUPPORT. The laws of a buffer: read after write, every other byte kept, the canonical form kept, and equal contents are
equal data. -/

namespace Sys2Proof.Machine

@[simp] theorem Memory.read?_nil (a : Nat) : Memory.read? a [] = none := rfl

theorem Memory.read?_cons (a : Nat) (c : Host.Cell) (m : Memory) :
    Memory.read? a (c :: m) = if c.1 = a then some c.2 else Memory.read? a m := rfl

/-- A byte just written is read back. -/
@[simp] theorem Memory.read?_write_self (a : Nat) (b : Byte) (m : Memory) :
    Memory.read? a (Memory.write a b m) = some b := by
  induction m with
  | nil => simp [Memory.write, Memory.read?]
  | cons c rest ih =>
    simp only [Memory.write]
    split
    · simp [Memory.read?]
    · split
      · simp [Memory.read?]
      · rename_i _ h
        simp only [Memory.read?, if_neg (Ne.symm h), ih]

/-- A write leaves every other byte as it was. -/
theorem Memory.read?_write_other {a a' : Nat} (h : a' ≠ a) (b : Byte) (m : Memory) :
    Memory.read? a' (Memory.write a b m) = Memory.read? a' m := by
  induction m with
  | nil => simp [Memory.write, Memory.read?, h.symm]
  | cons c rest ih =>
    simp only [Memory.write]
    split
    · simp [Memory.read?, h.symm]
    · split
      · rename_i _ hc
        simp only [Memory.read?, ← hc, if_neg h.symm]
      · simp only [Memory.read?, ih]

theorem Memory.read?_write (a a' : Nat) (b : Byte) (m : Memory) :
    Memory.read? a' (Memory.write a b m) = if a' = a then some b else Memory.read? a' m := by
  split
  · rename_i h; subst h; simp
  · rename_i h; exact Memory.read?_write_other h b m

/-- Every entry of a memory after a write is the new one or an old one. -/
theorem Memory.mem_write {a : Nat} {b : Byte} {m : Memory} {c : Host.Cell} (h : c ∈ Memory.write a b m) :
    c = (a, b) ∨ c ∈ m := by
  induction m with
  | nil => exact .inl (by simpa [Memory.write] using h)
  | cons d rest ih =>
    simp only [Memory.write] at h
    split at h
    · simpa using h
    · split at h
      · rcases List.mem_cons.mp h with h | h
        · exact .inl h
        · exact .inr (List.mem_cons_of_mem _ h)
      · rcases List.mem_cons.mp h with h | h
        · exact .inr (h ▸ List.mem_cons_self)
        · exact (ih h).imp_right (List.mem_cons_of_mem _)

/-- The canonical form, as a pairwise order. -/
theorem Memory.wf_iff_pairwise (m : Memory) : Memory.wf m = true ↔ m.Pairwise (fun c d => c.1 < d.1) := by
  induction m with
  | nil => simp [Memory.wf]
  | cons c rest ih =>
    cases rest with
    | nil => simp [Memory.wf]
    | cons d rest =>
      simp only [Memory.wf, Bool.and_eq_true, decide_eq_true_eq, ih, List.pairwise_cons]
      constructor
      · rintro ⟨hcd, hd, hrest⟩
        refine ⟨fun x hx => ?_, hd, hrest⟩
        rcases List.mem_cons.mp hx with rfl | hx
        · exact hcd
        · exact lt_trans hcd (hd x hx)
      · rintro ⟨hc, hd, hrest⟩
        exact ⟨hc d List.mem_cons_self, hd, hrest⟩

/-- A write keeps the canonical form. -/
theorem Memory.write_wf {m : Memory} (h : Memory.wf m = true) (a : Nat) (b : Byte) :
    Memory.wf (Memory.write a b m) = true := by
  rw [Memory.wf_iff_pairwise] at h ⊢
  induction m with
  | nil => simp [Memory.write]
  | cons c rest ih =>
    obtain ⟨hc, hrest⟩ := List.pairwise_cons.mp h
    simp only [Memory.write]
    split
    · rename_i hlt
      refine List.pairwise_cons.mpr ⟨fun x hx => ?_, h⟩
      rcases List.mem_cons.mp hx with rfl | hx
      · exact hlt
      · exact lt_trans hlt (hc x hx)
    · split
      · rename_i _ heq
        exact List.pairwise_cons.mpr ⟨fun x hx => heq ▸ hc x hx, hrest⟩
      · rename_i hlt hne
        refine List.pairwise_cons.mpr ⟨fun x hx => ?_, ih hrest⟩
        rcases Memory.mem_write hx with rfl | hx
        · exact lt_of_le_of_ne (not_lt.mp hlt) (Ne.symm hne)
        · exact hc x hx

/-- Reading below every listed address finds nothing. -/
theorem Memory.read?_eq_none_of_lt {a : Nat} {m : Memory} (h : ∀ c ∈ m, a < c.1) : Memory.read? a m = none := by
  induction m with
  | nil => rfl
  | cons c rest ih =>
    rw [Memory.read?_cons, if_neg (Nat.ne_of_gt (h c List.mem_cons_self))]
    exact ih fun d hd => h d (List.mem_cons_of_mem _ hd)

/-- An address with a value is listed. -/
theorem Memory.mem_of_read? {a : Nat} {b : Byte} {m : Memory} (h : Memory.read? a m = some b) : (a, b) ∈ m := by
  induction m with
  | nil => simp at h
  | cons c rest ih =>
    rw [Memory.read?_cons] at h
    split at h
    · rename_i hc
      obtain rfl : c = (a, b) := Prod.ext hc (Option.some.inj h)
      exact List.mem_cons_self
    · exact List.mem_cons_of_mem _ (ih h)

/-- Two memories in canonical form that read alike at every address are equal data. -/
theorem Memory.ext_read? {m m' : Memory} (h : Memory.wf m = true) (h' : Memory.wf m' = true)
    (hr : ∀ a, Memory.read? a m = Memory.read? a m') : m = m' := by
  rw [Memory.wf_iff_pairwise] at h h'
  induction m generalizing m' with
  | nil =>
    cases m' with
    | nil => rfl
    | cons d _ => simpa [Memory.read?] using hr d.1
  | cons c rest ih =>
    cases m' with
    | nil => simpa [Memory.read?] using hr c.1
    | cons d rest' =>
      obtain ⟨hc, hrest⟩ := List.pairwise_cons.mp h
      obtain ⟨hd, hrest'⟩ := List.pairwise_cons.mp h'
      have hcd : c.1 = d.1 := by
        rcases lt_trichotomy c.1 d.1 with hlt | heq | hlt
        · have := hr c.1
          rw [Memory.read?_cons, if_pos rfl, Memory.read?_eq_none_of_lt (m := d :: rest')] at this
          · cases this
          · intro x hx
            rcases List.mem_cons.mp hx with rfl | hx
            · exact hlt
            · exact lt_trans hlt (hd x hx)
        · exact heq
        · have := hr d.1
          rw [Memory.read?_cons (c := d), if_pos rfl, Memory.read?_eq_none_of_lt (m := c :: rest)] at this
          · cases this
          · intro x hx
            rcases List.mem_cons.mp hx with rfl | hx
            · exact hlt
            · exact lt_trans hlt (hc x hx)
      have hv : c.2 = d.2 := by
        have := hr c.1
        rw [Memory.read?_cons, if_pos rfl, Memory.read?_cons, if_pos hcd.symm] at this
        exact Option.some.inj this
      have : c = d := Prod.ext hcd hv
      subst this
      congr 1
      refine ih hrest hrest' fun a => ?_
      by_cases ha : c.1 = a
      · subst ha
        rw [Memory.read?_eq_none_of_lt hc, Memory.read?_eq_none_of_lt hd]
      · have := hr a
        rwa [Memory.read?_cons, if_neg ha, Memory.read?_cons, if_neg ha] at this

/-- The buffers of an engine just powered on are in canonical form. -/
theorem powerOn_buffers_wf (p : Params) :
    Memory.wf (State.powerOn p).stage = true ∧ Memory.wf (State.powerOn p).seg = true := ⟨rfl, rfl⟩

/-- Every named operation keeps the canonical form of the buffers: `stageWrite` by `Memory.write_wf`, `accept` because it
copies, the others because they do not touch them. -/
theorem accept_buffers_wf {s : State} (h : Memory.wf s.stage = true) :
    Memory.wf (accept s).stage = true ∧ Memory.wf (accept s).seg = true := ⟨h, h⟩

theorem stageWrite_buffers_wf {s : State} (h : Memory.wf s.stage = true ∧ Memory.wf s.seg = true) (a : Nat) (b : Byte) :
    Memory.wf (stageWrite a b s).stage = true ∧ Memory.wf (stageWrite a b s).seg = true :=
  ⟨Memory.write_wf h.1 a b, h.2⟩

end Sys2Proof.Machine
end

