-- ==== Sys2Proof/Laws/State.lean ====
section
/-! SUPPORT. One lemma per field for each named update of State (Machine/Ops.lean, Machine/Fetch.lean), so that no later proof
unfolds a record update. -/

namespace Sys2Proof.Machine

/-! ### `enterHunting` -/

@[simp] theorem enterHunting_state (s : State) : (enterHunting s).state = .hunting := rfl
@[simp] theorem enterHunting_prevValid (s : State) : (enterHunting s).prevValid = false := rfl
@[simp] theorem enterHunting_prev (s : State) : (enterHunting s).prev = 0 := rfl
@[simp] theorem enterHunting_lenB0 (s : State) : (enterHunting s).lenB0 = 0 := rfl
@[simp] theorem enterHunting_len (s : State) : (enterHunting s).len = 0 := rfl
@[simp] theorem enterHunting_pos (s : State) : (enterHunting s).pos = 0 := rfl
@[simp] theorem enterHunting_xorAcc (s : State) : (enterHunting s).xorAcc = 0 := rfl
@[simp] theorem enterHunting_byteTimer (s : State) : (enterHunting s).byteTimer = 0 := rfl
@[simp] theorem enterHunting_frameTimer (s : State) : (enterHunting s).frameTimer = 0 := rfl
@[simp] theorem enterHunting_drainCnt (s : State) : (enterHunting s).drainCnt = 0 := rfl
@[simp] theorem enterHunting_stage (s : State) : (enterHunting s).stage = s.stage := rfl
@[simp] theorem enterHunting_seg (s : State) : (enterHunting s).seg = s.seg := rfl
@[simp] theorem enterHunting_errValid (s : State) : (enterHunting s).errValid = s.errValid := rfl
@[simp] theorem enterHunting_errCode (s : State) : (enterHunting s).errCode = s.errCode := rfl
@[simp] theorem enterHunting_params (s : State) : (enterHunting s).params = s.params := rfl
@[simp] theorem enterHunting_stimulus (s : State) : (enterHunting s).stimulus = s.stimulus := rfl
@[simp] theorem enterHunting_clock (s : State) : (enterHunting s).clock = s.clock := rfl

/-! ### `report` -/

@[simp] theorem report_state (e : FailureKind) (s : State) : (report e s).state = s.state := rfl
@[simp] theorem report_prevValid (e : FailureKind) (s : State) : (report e s).prevValid = s.prevValid := rfl
@[simp] theorem report_prev (e : FailureKind) (s : State) : (report e s).prev = s.prev := rfl
@[simp] theorem report_lenB0 (e : FailureKind) (s : State) : (report e s).lenB0 = s.lenB0 := rfl
@[simp] theorem report_len (e : FailureKind) (s : State) : (report e s).len = s.len := rfl
@[simp] theorem report_pos (e : FailureKind) (s : State) : (report e s).pos = s.pos := rfl
@[simp] theorem report_xorAcc (e : FailureKind) (s : State) : (report e s).xorAcc = s.xorAcc := rfl
@[simp] theorem report_byteTimer (e : FailureKind) (s : State) : (report e s).byteTimer = s.byteTimer := rfl
@[simp] theorem report_frameTimer (e : FailureKind) (s : State) : (report e s).frameTimer = s.frameTimer := rfl
@[simp] theorem report_drainCnt (e : FailureKind) (s : State) : (report e s).drainCnt = s.drainCnt := rfl
@[simp] theorem report_stage (e : FailureKind) (s : State) : (report e s).stage = s.stage := rfl
@[simp] theorem report_seg (e : FailureKind) (s : State) : (report e s).seg = s.seg := rfl
@[simp] theorem report_errValid (e : FailureKind) (s : State) : (report e s).errValid = true := rfl
@[simp] theorem report_errCode (e : FailureKind) (s : State) : (report e s).errCode = e.code := rfl
@[simp] theorem report_params (e : FailureKind) (s : State) : (report e s).params = s.params := rfl
@[simp] theorem report_stimulus (e : FailureKind) (s : State) : (report e s).stimulus = s.stimulus := rfl
@[simp] theorem report_clock (e : FailureKind) (s : State) : (report e s).clock = s.clock := rfl

/-! ### `clearReport` -/

@[simp] theorem clearReport_state (s : State) : (clearReport s).state = s.state := rfl
@[simp] theorem clearReport_prevValid (s : State) : (clearReport s).prevValid = s.prevValid := rfl
@[simp] theorem clearReport_prev (s : State) : (clearReport s).prev = s.prev := rfl
@[simp] theorem clearReport_lenB0 (s : State) : (clearReport s).lenB0 = s.lenB0 := rfl
@[simp] theorem clearReport_len (s : State) : (clearReport s).len = s.len := rfl
@[simp] theorem clearReport_pos (s : State) : (clearReport s).pos = s.pos := rfl
@[simp] theorem clearReport_xorAcc (s : State) : (clearReport s).xorAcc = s.xorAcc := rfl
@[simp] theorem clearReport_byteTimer (s : State) : (clearReport s).byteTimer = s.byteTimer := rfl
@[simp] theorem clearReport_frameTimer (s : State) : (clearReport s).frameTimer = s.frameTimer := rfl
@[simp] theorem clearReport_drainCnt (s : State) : (clearReport s).drainCnt = s.drainCnt := rfl
@[simp] theorem clearReport_stage (s : State) : (clearReport s).stage = s.stage := rfl
@[simp] theorem clearReport_seg (s : State) : (clearReport s).seg = s.seg := rfl
@[simp] theorem clearReport_errValid (s : State) : (clearReport s).errValid = false := rfl
@[simp] theorem clearReport_errCode (s : State) : (clearReport s).errCode = 0 := rfl
@[simp] theorem clearReport_params (s : State) : (clearReport s).params = s.params := rfl
@[simp] theorem clearReport_stimulus (s : State) : (clearReport s).stimulus = s.stimulus := rfl
@[simp] theorem clearReport_clock (s : State) : (clearReport s).clock = s.clock := rfl

/-! ### `raiseFailure` -/

@[simp] theorem raiseFailure_state (e : FailureKind) (s : State) : (raiseFailure e s).state = .hunting := rfl
@[simp] theorem raiseFailure_prevValid (e : FailureKind) (s : State) : (raiseFailure e s).prevValid = false := rfl
@[simp] theorem raiseFailure_prev (e : FailureKind) (s : State) : (raiseFailure e s).prev = 0 := rfl
@[simp] theorem raiseFailure_lenB0 (e : FailureKind) (s : State) : (raiseFailure e s).lenB0 = 0 := rfl
@[simp] theorem raiseFailure_len (e : FailureKind) (s : State) : (raiseFailure e s).len = 0 := rfl
@[simp] theorem raiseFailure_pos (e : FailureKind) (s : State) : (raiseFailure e s).pos = 0 := rfl
@[simp] theorem raiseFailure_xorAcc (e : FailureKind) (s : State) : (raiseFailure e s).xorAcc = 0 := rfl
@[simp] theorem raiseFailure_byteTimer (e : FailureKind) (s : State) : (raiseFailure e s).byteTimer = 0 := rfl
@[simp] theorem raiseFailure_frameTimer (e : FailureKind) (s : State) : (raiseFailure e s).frameTimer = 0 := rfl
@[simp] theorem raiseFailure_drainCnt (e : FailureKind) (s : State) : (raiseFailure e s).drainCnt = 0 := rfl
@[simp] theorem raiseFailure_stage (e : FailureKind) (s : State) : (raiseFailure e s).stage = s.stage := rfl
@[simp] theorem raiseFailure_seg (e : FailureKind) (s : State) : (raiseFailure e s).seg = s.seg := rfl
@[simp] theorem raiseFailure_errValid (e : FailureKind) (s : State) : (raiseFailure e s).errValid = true := rfl
@[simp] theorem raiseFailure_errCode (e : FailureKind) (s : State) : (raiseFailure e s).errCode = e.code := rfl
@[simp] theorem raiseFailure_params (e : FailureKind) (s : State) : (raiseFailure e s).params = s.params := rfl
@[simp] theorem raiseFailure_stimulus (e : FailureKind) (s : State) : (raiseFailure e s).stimulus = s.stimulus := rfl
@[simp] theorem raiseFailure_clock (e : FailureKind) (s : State) : (raiseFailure e s).clock = s.clock := rfl

/-! ### `accept` -/

@[simp] theorem accept_state (s : State) : (accept s).state = .valid := rfl
@[simp] theorem accept_prevValid (s : State) : (accept s).prevValid = false := rfl
@[simp] theorem accept_prev (s : State) : (accept s).prev = 0 := rfl
@[simp] theorem accept_lenB0 (s : State) : (accept s).lenB0 = 0 := rfl
@[simp] theorem accept_len (s : State) : (accept s).len = 0 := rfl
@[simp] theorem accept_pos (s : State) : (accept s).pos = 0 := rfl
@[simp] theorem accept_xorAcc (s : State) : (accept s).xorAcc = 0 := rfl
@[simp] theorem accept_byteTimer (s : State) : (accept s).byteTimer = 0 := rfl
@[simp] theorem accept_frameTimer (s : State) : (accept s).frameTimer = 0 := rfl
@[simp] theorem accept_drainCnt (s : State) : (accept s).drainCnt = 0 := rfl
@[simp] theorem accept_stage (s : State) : (accept s).stage = s.stage := rfl
@[simp] theorem accept_seg (s : State) : (accept s).seg = s.stage := rfl
@[simp] theorem accept_errValid (s : State) : (accept s).errValid = s.errValid := rfl
@[simp] theorem accept_errCode (s : State) : (accept s).errCode = s.errCode := rfl
@[simp] theorem accept_params (s : State) : (accept s).params = s.params := rfl
@[simp] theorem accept_stimulus (s : State) : (accept s).stimulus = s.stimulus := rfl
@[simp] theorem accept_clock (s : State) : (accept s).clock = s.clock := rfl

/-! ### `stageWrite` -/

@[simp] theorem stageWrite_state (a : Nat) (b : Byte) (s : State) : (stageWrite a b s).state = s.state := rfl
@[simp] theorem stageWrite_prevValid (a : Nat) (b : Byte) (s : State) : (stageWrite a b s).prevValid = s.prevValid := rfl
@[simp] theorem stageWrite_prev (a : Nat) (b : Byte) (s : State) : (stageWrite a b s).prev = s.prev := rfl
@[simp] theorem stageWrite_lenB0 (a : Nat) (b : Byte) (s : State) : (stageWrite a b s).lenB0 = s.lenB0 := rfl
@[simp] theorem stageWrite_len (a : Nat) (b : Byte) (s : State) : (stageWrite a b s).len = s.len := rfl
@[simp] theorem stageWrite_pos (a : Nat) (b : Byte) (s : State) : (stageWrite a b s).pos = s.pos := rfl
@[simp] theorem stageWrite_xorAcc (a : Nat) (b : Byte) (s : State) : (stageWrite a b s).xorAcc = s.xorAcc := rfl
@[simp] theorem stageWrite_byteTimer (a : Nat) (b : Byte) (s : State) : (stageWrite a b s).byteTimer = s.byteTimer := rfl
@[simp] theorem stageWrite_frameTimer (a : Nat) (b : Byte) (s : State) : (stageWrite a b s).frameTimer = s.frameTimer := rfl
@[simp] theorem stageWrite_drainCnt (a : Nat) (b : Byte) (s : State) : (stageWrite a b s).drainCnt = s.drainCnt := rfl
@[simp] theorem stageWrite_stage (a : Nat) (b : Byte) (s : State) : (stageWrite a b s).stage = Memory.write a b s.stage := rfl
@[simp] theorem stageWrite_seg (a : Nat) (b : Byte) (s : State) : (stageWrite a b s).seg = s.seg := rfl
@[simp] theorem stageWrite_errValid (a : Nat) (b : Byte) (s : State) : (stageWrite a b s).errValid = s.errValid := rfl
@[simp] theorem stageWrite_errCode (a : Nat) (b : Byte) (s : State) : (stageWrite a b s).errCode = s.errCode := rfl
@[simp] theorem stageWrite_params (a : Nat) (b : Byte) (s : State) : (stageWrite a b s).params = s.params := rfl
@[simp] theorem stageWrite_stimulus (a : Nat) (b : Byte) (s : State) : (stageWrite a b s).stimulus = s.stimulus := rfl
@[simp] theorem stageWrite_clock (a : Nat) (b : Byte) (s : State) : (stageWrite a b s).clock = s.clock := rfl

/-! ### `bodyCount` -/

@[simp] theorem bodyCount_state (b : Byte) (s : State) : (bodyCount b s).state = s.state := rfl
@[simp] theorem bodyCount_prevValid (b : Byte) (s : State) : (bodyCount b s).prevValid = s.prevValid := rfl
@[simp] theorem bodyCount_prev (b : Byte) (s : State) : (bodyCount b s).prev = s.prev := rfl
@[simp] theorem bodyCount_lenB0 (b : Byte) (s : State) : (bodyCount b s).lenB0 = s.lenB0 := rfl
@[simp] theorem bodyCount_len (b : Byte) (s : State) : (bodyCount b s).len = s.len := rfl
@[simp] theorem bodyCount_pos (b : Byte) (s : State) : (bodyCount b s).pos = s.pos + 1 := rfl
@[simp] theorem bodyCount_xorAcc (b : Byte) (s : State) : (bodyCount b s).xorAcc = s.xorAcc ^^^ b := rfl
@[simp] theorem bodyCount_byteTimer (b : Byte) (s : State) : (bodyCount b s).byteTimer = 0 := rfl
@[simp] theorem bodyCount_frameTimer (b : Byte) (s : State) : (bodyCount b s).frameTimer = if s.pos = 0 then 0 else s.frameTimer := rfl
@[simp] theorem bodyCount_drainCnt (b : Byte) (s : State) : (bodyCount b s).drainCnt = s.drainCnt := rfl
@[simp] theorem bodyCount_stage (b : Byte) (s : State) : (bodyCount b s).stage = s.stage := rfl
@[simp] theorem bodyCount_seg (b : Byte) (s : State) : (bodyCount b s).seg = s.seg := rfl
@[simp] theorem bodyCount_errValid (b : Byte) (s : State) : (bodyCount b s).errValid = s.errValid := rfl
@[simp] theorem bodyCount_errCode (b : Byte) (s : State) : (bodyCount b s).errCode = s.errCode := rfl
@[simp] theorem bodyCount_params (b : Byte) (s : State) : (bodyCount b s).params = s.params := rfl
@[simp] theorem bodyCount_stimulus (b : Byte) (s : State) : (bodyCount b s).stimulus = s.stimulus := rfl
@[simp] theorem bodyCount_clock (b : Byte) (s : State) : (bodyCount b s).clock = s.clock := rfl

/-! ### `advance` -/

@[simp] theorem advance_state (s : State) : (advance s).state = s.state := rfl
@[simp] theorem advance_prevValid (s : State) : (advance s).prevValid = s.prevValid := rfl
@[simp] theorem advance_prev (s : State) : (advance s).prev = s.prev := rfl
@[simp] theorem advance_lenB0 (s : State) : (advance s).lenB0 = s.lenB0 := rfl
@[simp] theorem advance_len (s : State) : (advance s).len = s.len := rfl
@[simp] theorem advance_pos (s : State) : (advance s).pos = s.pos := rfl
@[simp] theorem advance_xorAcc (s : State) : (advance s).xorAcc = s.xorAcc := rfl
@[simp] theorem advance_byteTimer (s : State) : (advance s).byteTimer = s.byteTimer := rfl
@[simp] theorem advance_frameTimer (s : State) : (advance s).frameTimer = s.frameTimer := rfl
@[simp] theorem advance_drainCnt (s : State) : (advance s).drainCnt = s.drainCnt := rfl
@[simp] theorem advance_stage (s : State) : (advance s).stage = s.stage := rfl
@[simp] theorem advance_seg (s : State) : (advance s).seg = s.seg := rfl
@[simp] theorem advance_errValid (s : State) : (advance s).errValid = s.errValid := rfl
@[simp] theorem advance_errCode (s : State) : (advance s).errCode = s.errCode := rfl
@[simp] theorem advance_params (s : State) : (advance s).params = s.params := rfl
@[simp] theorem advance_stimulus (s : State) : (advance s).stimulus = s.stimulus.tail := rfl
@[simp] theorem advance_clock (s : State) : (advance s).clock = s.clock + 1 := rfl

/-! ### `edge` -/

@[simp] theorem edge_state (s : State) : (edge s).state = s.state := rfl
@[simp] theorem edge_prevValid (s : State) : (edge s).prevValid = s.prevValid := rfl
@[simp] theorem edge_prev (s : State) : (edge s).prev = s.prev := rfl
@[simp] theorem edge_lenB0 (s : State) : (edge s).lenB0 = s.lenB0 := rfl
@[simp] theorem edge_len (s : State) : (edge s).len = s.len := rfl
@[simp] theorem edge_pos (s : State) : (edge s).pos = s.pos := rfl
@[simp] theorem edge_xorAcc (s : State) : (edge s).xorAcc = s.xorAcc := rfl
@[simp] theorem edge_byteTimer (s : State) : (edge s).byteTimer = s.byteTimer := rfl
@[simp] theorem edge_frameTimer (s : State) : (edge s).frameTimer = s.frameTimer := rfl
@[simp] theorem edge_drainCnt (s : State) : (edge s).drainCnt = s.drainCnt := rfl
@[simp] theorem edge_stage (s : State) : (edge s).stage = s.stage := rfl
@[simp] theorem edge_seg (s : State) : (edge s).seg = s.seg := rfl
@[simp] theorem edge_errValid (s : State) : (edge s).errValid = false := rfl
@[simp] theorem edge_errCode (s : State) : (edge s).errCode = 0 := rfl
@[simp] theorem edge_params (s : State) : (edge s).params = s.params := rfl
@[simp] theorem edge_stimulus (s : State) : (edge s).stimulus = s.stimulus.tail := rfl
@[simp] theorem edge_clock (s : State) : (edge s).clock = s.clock + 1 := rfl

end Sys2Proof.Machine
end

