-- ==== Sys2Proof/Laws/Ops.lean ====
section
/-! SUPPORT. One lemma per shared operation that says once everything it can do, and one inversion lemma per operation of the
table: when it answers a next state, its clause held and the next state is this. -/

namespace Sys2Proof.Machine

/-- `whenSelected` goes on exactly when the clause holds, and then to the given state. -/
@[simp] theorem whenSelected_next {c : Bool} {t u : State} :
    whenSelected c t = .next u ↔ c = true ∧ t = u := by
  cases c <;> simp [whenSelected]

theorem whenSelected_of {c : Bool} (h : c = true) (t : State) : whenSelected c t = .next t := by simp [h]

/-- `whenSelected` stops exactly when the clause fails. -/
@[simp] theorem whenSelected_refused {c : Bool} {t : State} {r : Refusal} :
    whenSelected c t = .refused r ↔ c = false ∧ r = .notSelected := by
  cases c <;> simp [whenSelected, eq_comm]

/-- A cycle goes on past an event exactly when the event gave a state and the rest goes on from it. -/
@[simp] theorem thenDo_next {o : Result} {f : State → Result} {u : State} :
    thenDo o f = .next u ↔ ∃ s, o = .next s ∧ f s = .next u := by
  cases o <;> simp [thenDo]

@[simp] theorem thenDo_of_next (s : State) (f : State → Result) : thenDo (.next s) f = f s := rfl

/-- A dispatched event runs exactly the operation its key selects. -/
theorem dispatch_of_decode {k : BitVec 10} {b : Byte} {i : Instr} (h : decodeKey k b = .ok i) (s : State) :
    dispatch k b s = exec i s := by
  unfold dispatch; rw [h]

theorem dispatch_next {k : BitVec 10} {b : Byte} {s t : State} :
    dispatch k b s = .next t ↔ ∃ i, decodeKey k b = .ok i ∧ exec i s = .next t := by
  unfold dispatch
  cases decodeKey k b <;> simp

/-- Everything `body_complete` can do (R135). -/
theorem bodyComplete_cases (csumEn last : Bool) (s : State) :
    (last = false ∧ bodyComplete csumEn last s = { s with state := .bodyPending }) ∨
    (last = true ∧ csumEn = true ∧ bodyComplete csumEn last s = { s with state := .checksumPending }) ∨
    (last = true ∧ csumEn = false ∧ bodyComplete csumEn last s = accept s) := by
  cases last <;> cases csumEn <;> simp [bodyComplete]

@[simp] theorem bodyCommon_stage (csumEn last : Bool) (b : Byte) (s : State) :
    (bodyCommon csumEn last b s).stage = s.stage := by
  cases last <;> cases csumEn <;> rfl

@[simp] theorem bodyCommon_params (csumEn last : Bool) (b : Byte) (s : State) :
    (bodyCommon csumEn last b s).params = s.params := by
  cases last <;> cases csumEn <;> rfl

@[simp] theorem bodyCommon_stimulus (csumEn last : Bool) (b : Byte) (s : State) :
    (bodyCommon csumEn last b s).stimulus = s.stimulus := by
  cases last <;> cases csumEn <;> rfl

@[simp] theorem bodyCommon_clock (csumEn last : Bool) (b : Byte) (s : State) :
    (bodyCommon csumEn last b s).clock = s.clock := by
  cases last <;> cases csumEn <;> rfl

@[simp] theorem bodyCommon_errValid (csumEn last : Bool) (b : Byte) (s : State) :
    (bodyCommon csumEn last b s).errValid = s.errValid := by
  cases last <;> cases csumEn <;> rfl

@[simp] theorem bodyCommon_errCode (csumEn last : Bool) (b : Byte) (s : State) :
    (bodyCommon csumEn last b s).errCode = s.errCode := by
  cases last <;> cases csumEn <;> rfl

theorem bodyCommon_seg (csumEn last : Bool) (b : Byte) (s : State) :
    (bodyCommon csumEn last b s).seg = if last && !csumEn then s.stage else s.seg := by
  cases last <;> cases csumEn <;> rfl

theorem bodyCommon_state (csumEn last : Bool) (b : Byte) (s : State) :
    (bodyCommon csumEn last b s).state =
      if last then (if csumEn then .checksumPending else .valid) else .bodyPending := by
  cases last <;> cases csumEn <;> rfl

/-- What a selected BODY operation's state satisfies. -/
theorem bodySelected_iff {w : Window} {csumEn last : Bool} {s : State} :
    bodySelected w csumEn last s = true ↔
      s.state = .bodyPending ∧ s.pos.toNat < s.params.expLen ∧ win s = w ∧ csumEn = s.params.csumEn ∧
        last = lastBody s := by
  simp [bodySelected, and_assoc]

/-! ### Inversion: one lemma per operation -/

theorem exec_reset_next {s t : State} : exec .reset s = .next t ↔ t = clearReport (enterHunting s) := by
  simp [exec, execReset, eq_comm]

theorem exec_huntMiss_next {b : Byte} {s t : State} : exec (.huntMiss b) s = .next t ↔
    s.state = .hunting ∧ hit s b = false ∧ t = { s with prev := b, prevValid := true } := by
  simp [exec, execHuntMiss, and_assoc, eq_comm (a := t)]

theorem exec_huntSync_next {b : Byte} {s t : State} : exec (.huntSync b) s = .next t ↔
    s.state = .hunting ∧ hit s b = true ∧
      t = { s with state := .synced, prevValid := false, prev := 0x00, xorAcc := 0x00, byteTimer := 0 } := by
  simp [exec, execHuntSync, and_assoc, eq_comm (a := t)]

theorem exec_lenB0_next {b : Byte} {s t : State} : exec (.lenB0 b) s = .next t ↔
    s.state = .synced ∧ t = { s with lenB0 := b, xorAcc := s.xorAcc ^^^ b, byteTimer := 0, state := .lenPending } := by
  simp [exec, execLenB0, eq_comm (a := t)]

theorem exec_lenB1Ok_next {b : Byte} {s t : State} : exec (.lenB1Ok b) s = .next t ↔
    s.state = .lenPending ∧ lenOk s b = true ∧
      t = { s with len := dlen s b, xorAcc := s.xorAcc ^^^ b, byteTimer := 0, pos := 0, state := .bodyPending } := by
  simp [exec, execLenB1Ok, and_assoc, eq_comm (a := t)]

theorem exec_lenB1Bad_next {b : Byte} {s t : State} : exec (.lenB1Bad b) s = .next t ↔
    s.state = .lenPending ∧ lenOk s b = false ∧ doDrain s b = false ∧ t = raiseFailure .headerMismatch s := by
  simp [exec, execLenB1Bad, and_assoc, eq_comm (a := t)]

theorem exec_lenB1Drain_next {b : Byte} {s t : State} : exec (.lenB1Drain b) s = .next t ↔
    s.state = .lenPending ∧ lenOk s b = false ∧ doDrain s b = true ∧
      t = { report .headerMismatch s with
            len := dlen s b, drainCnt := BitVec.ofNat 16 (drainN s b), xorAcc := s.xorAcc ^^^ b, byteTimer := 0,
            state := .draining } := by
  simp [exec, execLenB1Drain, and_assoc, eq_comm (a := t)]

theorem exec_drainByte_next {b : Byte} {s t : State} : exec (.drainByte b) s = .next t ↔
    s.state = .draining ∧ 1 < s.drainCnt.toNat ∧ t = { s with drainCnt := s.drainCnt - 1, byteTimer := 0 } := by
  simp [exec, execDrainByte, and_assoc, eq_comm (a := t)]

theorem exec_drainLast_next {b : Byte} {s t : State} : exec (.drainLast b) s = .next t ↔
    s.state = .draining ∧ lastDrain s = true ∧ t = enterHunting s := by
  simp [exec, execDrainLast, and_assoc, eq_comm (a := t)]

theorem exec_bodySkip_next {csumEn last : Bool} {b : Byte} {s t : State} :
    exec (.bodySkip csumEn last b) s = .next t ↔
      bodySelected .skip csumEn last s = true ∧ t = bodyCommon csumEn last b s := by
  simp [exec, execBodySkip, eq_comm (a := t)]

theorem exec_bodyTake_next {csumEn last : Bool} {b : Byte} {s t : State} :
    exec (.bodyTake csumEn last b) s = .next t ↔
      bodySelected .take csumEn last s = true ∧
        t = bodyCommon csumEn last b (stageWrite (stageAddress s) b s) := by
  simp [exec, execBodyTake, eq_comm (a := t)]

theorem exec_bodyDrop_next {csumEn last : Bool} {b : Byte} {s t : State} :
    exec (.bodyDrop csumEn last b) s = .next t ↔
      bodySelected .drop csumEn last s = true ∧ t = bodyCommon csumEn last b s := by
  simp [exec, execBodyDrop, eq_comm (a := t)]

theorem exec_csumOk_next {b : Byte} {s t : State} : exec (.csumOk b) s = .next t ↔
    s.state = .checksumPending ∧ ckOk s b = true ∧ t = accept s := by
  simp [exec, execCsumOk, and_assoc, eq_comm (a := t)]

theorem exec_csumBad_next {b : Byte} {s t : State} : exec (.csumBad b) s = .next t ↔
    s.state = .checksumPending ∧ ckOk s b = false ∧ t = raiseFailure .checksumMismatch s := by
  simp [exec, execCsumBad, and_assoc, eq_comm (a := t)]

theorem exec_tickIdle_next {s t : State} : exec .tickIdle s = .next t ↔ timed s = false ∧ t = s := by
  simp [exec, execTickIdle, eq_comm (a := t)]

theorem exec_tickCount_next {s t : State} : exec .tickCount s = .next t ↔
    timed s = true ∧ fto s = false ∧ bto s = false ∧
      t = { s with
            byteTimer := s.byteTimer + 1
            frameTimer := if frameRun s then s.frameTimer + 1 else s.frameTimer } := by
  simp [exec, execTickCount, and_assoc, eq_comm (a := t)]

theorem exec_tickRto_next {s t : State} : exec .tickRto s = .next t ↔
    timed s = true ∧ bto s = true ∧ fto s = false ∧ t = raiseFailure .readTimeout s := by
  simp [exec, execTickRto, and_assoc, eq_comm (a := t)]

theorem exec_tickPto_next {s t : State} : exec .tickPto s = .next t ↔
    timed s = true ∧ fto s = true ∧ t = raiseFailure .payloadTimeout s := by
  simp [exec, execTickPto, and_assoc, eq_comm (a := t)]

theorem exec_sinkDone_next {s t : State} : exec .sinkDone s = .next t ↔ s.state = .valid ∧ t = enterHunting s := by
  simp [exec, execSinkDone, eq_comm (a := t)]

theorem exec_sinkIgn_next {s t : State} : exec .sinkIgn s = .next t ↔ t = s := by
  simp [exec, execSinkIgn, eq_comm (a := t)]

/-! ### Predicates -/

theorem hit_iff {s : State} {b : Byte} :
    hit s b = true ↔ s.prevValid = true ∧ s.prev = s.params.marker1 ∧ b = s.params.marker2 := by
  simp [hit, and_assoc]

theorem lenOk_iff {s : State} {b : Byte} : lenOk s b = true ↔ (dlen s b).toNat = s.params.expLen := by simp [lenOk]

theorem doDrain_iff {s : State} {b : Byte} :
    doDrain s b = true ↔ s.params.drainEn = true ∧ 0 < (dlen s b).toNat ∧ 0 < s.params.drainCap := by
  simp [doDrain, drainN]

theorem windowAt_skip {p : Params} {n : Nat} : windowAt p n = .skip ↔ n < p.winLo := by
  unfold windowAt; split
  · simp_all
  · split <;> simp_all

theorem winLo_le_winHi (p : Params) : p.winLo ≤ p.winHi := by simp [Params.winLo, Params.winHi]

theorem winHi_eq (p : Params) : p.winHi = p.winLo + p.segBytes := by
  simp only [Params.winLo, Params.winHi, Params.segBytes]; omega

theorem windowAt_take {p : Params} {n : Nat} : windowAt p n = .take ↔ p.winLo ≤ n ∧ n < p.winHi := by
  unfold windowAt; split
  · simp; omega
  · split <;> simp <;> omega

theorem windowAt_drop {p : Params} {n : Nat} : windowAt p n = .drop ↔ p.winHi ≤ n := by
  have := winLo_le_winHi p
  unfold windowAt; split
  · simp; omega
  · split <;> simp <;> omega

/-- A legal parameter record, clause by clause (R6). -/
theorem Params.legal_iff {p : Params} : p.legal = true ↔
    p.offsetPixels + p.countPixels ≤ p.totalPixels ∧ 1 ≤ p.totalPixels ∧ 3 * p.totalPixels ≤ 65535 ∧
      1 ≤ p.byteTimeout ∧ p.byteTimeout ≤ 65535 ∧ 1 ≤ p.frameTimeout ∧ p.frameTimeout ≤ 65535 ∧ p.drainCap ≤ 65535 := by
  simp [Params.legal, and_assoc]

theorem timed_iff {s : State} : timed s = true ↔ s.state ≠ .hunting ∧ s.state ≠ .valid := by
  unfold timed; cases s.state <;> simp

theorem frameRun_iff {s : State} :
    frameRun s = true ↔ (s.state = .bodyPending ∧ 1 ≤ s.pos.toNat) ∨ s.state = .checksumPending := by
  simp [frameRun]

theorem bto_iff {s : State} : bto s = true ↔ timed s = true ∧ s.params.byteTimeout ≤ s.byteTimer.toNat + 1 := by
  simp [bto]

theorem fto_iff {s : State} : fto s = true ↔ frameRun s = true ∧ s.params.frameTimeout ≤ s.frameTimer.toNat + 1 := by
  simp [fto]

theorem lastDrain_iff {s : State} : lastDrain s = true ↔ s.drainCnt.toNat = 1 := by
  simp [lastDrain, ← BitVec.toNat_inj]

theorem lastBody_iff {s : State} : lastBody s = true ↔ s.pos.toNat + 1 = s.params.expLen := by simp [lastBody]

theorem ckOk_iff {s : State} {b : Byte} : ckOk s b = true ↔ b = s.xorAcc := by simp [ckOk]

/-- The value of the assembled length (R82). -/
theorem assembleLen_toNat (big : Bool) (b0 b1 : Byte) :
    (assembleLen big b0 b1).toNat = if big then 256 * b0.toNat + b1.toNat else b0.toNat + 256 * b1.toNat := by
  have h0 := b0.isLt
  have h1 := b1.isLt
  cases big
  · simp only [assembleLen, Bool.false_eq_true, if_false, BitVec.toNat_append]
    rw [Nat.shiftLeft_eq, Nat.mul_comm, ← Nat.two_pow_add_eq_or_of_lt h0]; omega
  · simp only [assembleLen, if_true, BitVec.toNat_append]
    rw [Nat.shiftLeft_eq, Nat.mul_comm, ← Nat.two_pow_add_eq_or_of_lt h1]

end Sys2Proof.Machine
end

