-- ==== Sys2Proof/Laws/Invariants.lean ====
section
/-! SUPPORT. The invariants clause by clause, and that the named updates of a state keep them. -/

namespace Sys2Proof.Machine

/-- A 16-bit register that is not at its top counts up without wrapping. -/
theorem half_succ {x : Half} (h : x.toNat + 1 ≤ 65535) : (x + 1).toNat = x.toNat + 1 := by
  rw [BitVec.toNat_add]; simp; omega

theorem inv_iff {s : State} : s.inv = true ↔
    s.params.legal = true ∧ controlInv s = true ∧ timerInv s = true ∧ flagInv s = true ∧
      bufferInv s.params s.stage = true ∧ bufferInv s.params s.seg = true := by
  simp [State.inv, and_assoc]

theorem timerInv_iff {s : State} : timerInv s = true ↔
    s.byteTimer.toNat < s.params.byteTimeout ∧ s.frameTimer.toNat < s.params.frameTimeout ∧
      (timed s = true ∨ s.byteTimer = 0) ∧ (frameRun s = true ∨ s.frameTimer = 0) := by
  simp [timerInv, and_assoc]

theorem flagInv_iff {s : State} : flagInv s = true ↔
    (s.state = .hunting ∨ s.prevValid = false) ∧ (s.errValid = true ∨ s.errCode = 0) ∧
      (s.state = .draining ∨ s.drainCnt = 0) := by
  simp [flagInv, and_assoc]

theorem bufferInv_iff {p : Params} {m : Memory} : bufferInv p m = true ↔
    Memory.wf m = true ∧ ∀ c ∈ m, c.1 < p.segBytes := by
  simp [bufferInv]

theorem inv_enterHunting {s : State} (h : s.inv = true) : (enterHunting s).inv = true := by
  obtain ⟨hl, -, -, hf, hst, hsg⟩ := inv_iff.mp h
  obtain ⟨-, -, -, h1, -, h2, -⟩ := Params.legal_iff.mp hl
  have := flagInv_iff.mp hf
  refine inv_iff.mpr ⟨hl, rfl, timerInv_iff.mpr ?_, flagInv_iff.mpr ?_, hst, hsg⟩
  · simp; omega
  · simp; exact this.2.1

theorem inv_report {s : State} (e : FailureKind) (h : s.inv = true) : (report e s).inv = true := by
  obtain ⟨hl, hc, ht, hf, hst, hsg⟩ := inv_iff.mp h
  have := flagInv_iff.mp hf
  exact inv_iff.mpr ⟨hl, hc, ht, flagInv_iff.mpr ⟨this.1, .inl rfl, this.2.2⟩, hst, hsg⟩

theorem inv_raise {s : State} (e : FailureKind) (h : s.inv = true) : (raiseFailure e s).inv = true :=
  inv_enterHunting (inv_report e h)

theorem inv_clearReport {s : State} (h : s.inv = true) : (clearReport s).inv = true := by
  obtain ⟨hl, hc, ht, hf, hst, hsg⟩ := inv_iff.mp h
  have := flagInv_iff.mp hf
  exact inv_iff.mpr ⟨hl, hc, ht, flagInv_iff.mpr ⟨this.1, .inr rfl, this.2.2⟩, hst, hsg⟩

theorem inv_edge {s : State} (h : s.inv = true) : (edge s).inv = true := inv_clearReport (s := advance s) h

theorem inv_accept {s : State} (h : s.inv = true) : (accept s).inv = true := by
  obtain ⟨hl, -, -, hf, hst, hsg⟩ := inv_iff.mp h
  obtain ⟨-, -, -, h1, -, h2, -⟩ := Params.legal_iff.mp hl
  have := flagInv_iff.mp hf
  refine inv_iff.mpr ⟨hl, rfl, timerInv_iff.mpr ?_, flagInv_iff.mpr ?_, hst, hst⟩
  · simp; omega
  · simp; exact this.2.1

theorem bufferInv_write {p : Params} {m : Memory} (h : bufferInv p m = true) {a : Nat} (ha : a < p.segBytes)
    (b : Byte) :
    bufferInv p (Memory.write a b m) = true := by
  obtain ⟨h1, h2⟩ := bufferInv_iff.mp h
  refine bufferInv_iff.mpr ⟨Memory.write_wf h1 a b, fun c hc => ?_⟩
  rcases Memory.mem_write hc with rfl | hc
  · exact ha
  · exact h2 c hc

theorem inv_stageWrite {s : State} (h : s.inv = true) {a : Nat} (ha : a < s.params.segBytes) (b : Byte) :
    (stageWrite a b s).inv = true := by
  obtain ⟨hl, hc, ht, hf, hst, hsg⟩ := inv_iff.mp h
  exact inv_iff.mpr ⟨hl, hc, ht, hf, bufferInv_write hst ha b, hsg⟩

theorem written_iff {n : Nat} {m : Memory} :
    written n m = true ↔ ∀ a, a < n → (Memory.read? a m).isSome = true := by
  simp [written]

end Sys2Proof.Machine
end

