-- ==== Sys2Proof/Laws/Keys.lean ====
section
/-! SUPPORT. What the decoder answers for a dispatch key with given fields, one lemma per event class and control state
(30_encoding.md R92, R93). -/

namespace Sys2Proof.Machine

/-- The field `st` of a key that was built with it (R91). -/
theorem keySt_mkKey (rst : Bool) (ev : EventClass) (st : BitVec 3) (c3 c2 c1 c0 : Bool) :
    keySt (mkKey rst ev st c3 c2 c1 c0) = st := by
  cases rst <;> cases ev <;> cases c3 <;> cases c2 <;> cases c1 <;> cases c0 <;> (revert st; decide)

theorem decodeKey_reset (ev : EventClass) (st : BitVec 3) (c3 c2 c1 c0 : Bool) (b : Byte) :
    decodeKey (mkKey true ev st c3 c2 c1 c0) b = .ok .reset := by
  cases ev <;> cases c3 <;> cases c2 <;> cases c1 <;> cases c0 <;>
    (revert st; simp only [mkKey, EventClass.code]; intro st; fin_cases st <;> rfl)

theorem decodeKey_hunting (h : Bool) (b : Byte) :
    decodeKey (mkKey false .byte Control.hunting.code false false false h) b =
      .ok (if h then .huntSync b else .huntMiss b) := by
  cases h <;> rfl

theorem decodeKey_synced (b : Byte) :
    decodeKey (mkKey false .byte Control.synced.code false false false false) b = .ok (.lenB0 b) := rfl

theorem decodeKey_lenPending (d ok : Bool) (b : Byte) :
    decodeKey (mkKey false .byte Control.lenPending.code d false false ok) b =
      .ok (if ok then .lenB1Ok b else if d then .lenB1Drain b else .lenB1Bad b) := by
  cases d <;> cases ok <;> rfl

theorem decodeKey_bodyPending (c l : Bool) (w : Window) (b : Byte) :
    decodeKey (mkKey false .byte Control.bodyPending.code c l w.bits.1 w.bits.2) b =
      .ok (match w with
        | .skip => .bodySkip c l b
        | .take => .bodyTake c l b
        | .drop => .bodyDrop c l b) := by
  cases c <;> cases l <;> cases w <;> rfl

theorem decodeKey_checksumPending (ok : Bool) (b : Byte) :
    decodeKey (mkKey false .byte Control.checksumPending.code false false false ok) b =
      .ok (if ok then .csumOk b else .csumBad b) := by
  cases ok <;> rfl

theorem decodeKey_draining (l : Bool) (b : Byte) :
    decodeKey (mkKey false .byte Control.draining.code false l false false) b =
      .ok (if l then .drainLast b else .drainByte b) := by
  cases l <;> rfl

/-- A TICK key whose `fto` and `bto` imply `timed`, as R38 defines them. -/
theorem decodeKey_tick (st : Control) (t f o : Bool) (b : Byte) (hf : f = true → t = true) (ho : o = true → t = true) :
    decodeKey (mkKey false .tick st.code false t f o) b =
      .ok (if t then (if f then .tickPto else if o then .tickRto else .tickCount) else .tickIdle) := by
  cases st <;> cases t <;> cases f <;> cases o <;> first | rfl | (simp at hf ho)

theorem decodeKey_sink (st : Control) (v : Bool) (b : Byte) :
    decodeKey (mkKey false .sink st.code false false false v) b = .ok (if v then .sinkDone else .sinkIgn) := by
  cases st <;> cases v <;> rfl

/-- The word of a key, read back from its two bytes. -/
theorem keyWord_bytes (k : BitVec 10) :
    (k.setWidth 16).extractLsb' 8 8 ++ (k.setWidth 16).extractLsb' 0 8 = k.setWidth 16 ∧
      ¬ 1024 ≤ (k.setWidth 16).toNat ∧ (k.setWidth 16).setWidth 10 = k := by
  refine ⟨by rw [BitVec.extractLsb'_append_extractLsb'_eq_extractLsb' (by rfl)]; simp, ?_, ?_⟩
  · rw [BitVec.toNat_setWidth, Nat.mod_eq_of_lt (by have := k.isLt; omega)]; have := k.isLt; omega
  · rw [BitVec.setWidth_setWidth_of_le _ (by decide)]; simp

/-- Decoding the encoding of a key whose row has an operand byte. -/
theorem decode_byteRow {k : BitVec 10} {r : OpRow} (h : selectRow k = some r) (hb : r.isByte = true) (b : Byte)
    (rest : List Byte) :
    decode ((k.setWidth 16).extractLsb' 0 8 :: (k.setWidth 16).extractLsb' 8 8 :: b :: rest) =
      .ok (r.build (keyC k 3) (keyC k 2) b, rest) := by
  obtain ⟨hw, hn, hk⟩ := keyWord_bytes k
  simp only [decode, hw, hk, if_neg hn, h, hb, if_true]

/-- Decoding the encoding of a key whose row has no operand byte. -/
theorem decode_bareRow {k : BitVec 10} {r : OpRow} (h : selectRow k = some r) (hb : r.isByte = false)
    (rest : List Byte) :
    decode ((k.setWidth 16).extractLsb' 0 8 :: (k.setWidth 16).extractLsb' 8 8 :: rest) =
      .ok (r.build (keyC k 3) (keyC k 2) 0, rest) := by
  obtain ⟨hw, hn, hk⟩ := keyWord_bytes k
  simp only [decode, hw, hk, if_neg hn, h, hb, Bool.false_eq_true, if_false]

/-- `fto` and `bto` imply `timed` (R94). -/
theorem timed_of_frameRun {s : State} (h : frameRun s = true) : timed s = true := by
  unfold frameRun at h; unfold timed
  cases hs : s.state <;> simp [hs] at h ⊢

theorem timed_of_fto {s : State} (h : fto s = true) : timed s = true := by
  simp only [fto, Bool.and_eq_true] at h
  exact timed_of_frameRun h.1

theorem timed_of_bto {s : State} (h : bto s = true) : timed s = true := by
  simp only [bto, Bool.and_eq_true] at h
  exact h.1

end Sys2Proof.Machine
end

