-- ==== Sys2Proof/Laws/PerInstr.lean ====
section
/-! SUPPORT. A statement about every operation as syntax, one lemma per constructor: the encoder never writes a key of R94, and
it writes two bytes, or three where the operation consumes a byte. -/

namespace Sys2Proof.Laws.EncodedKey

/-- The encoder's key of `i` is one that can occur (R94), and the encoding has the operand byte exactly where the event is
BYTE (R11). -/
def Statement (i : Instr) : Prop :=
  keyImpossible (encodeKey i) = false ∧ (encode i).length = 2 + i.operand.toList.length

end Sys2Proof.Laws.EncodedKey

namespace Sys2Proof

theorem Laws.EncodedKey.reset : Laws.EncodedKey.Statement .reset := ⟨rfl, rfl⟩
theorem Laws.EncodedKey.huntMiss (b : Byte) : Laws.EncodedKey.Statement (.huntMiss b) :=
  ⟨(rfl : keyImpossible (mkKey false .byte 0 false false false false) = false), rfl⟩
theorem Laws.EncodedKey.huntSync (b : Byte) : Laws.EncodedKey.Statement (.huntSync b) :=
  ⟨(rfl : keyImpossible (mkKey false .byte 0 false false false true) = false), rfl⟩
theorem Laws.EncodedKey.lenB0 (b : Byte) : Laws.EncodedKey.Statement (.lenB0 b) :=
  ⟨(rfl : keyImpossible (mkKey false .byte 1 false false false false) = false), rfl⟩
theorem Laws.EncodedKey.lenB1Ok (b : Byte) : Laws.EncodedKey.Statement (.lenB1Ok b) :=
  ⟨(rfl : keyImpossible (mkKey false .byte 2 false false false true) = false), rfl⟩
theorem Laws.EncodedKey.lenB1Bad (b : Byte) : Laws.EncodedKey.Statement (.lenB1Bad b) :=
  ⟨(rfl : keyImpossible (mkKey false .byte 2 false false false false) = false), rfl⟩
theorem Laws.EncodedKey.lenB1Drain (b : Byte) : Laws.EncodedKey.Statement (.lenB1Drain b) :=
  ⟨(rfl : keyImpossible (mkKey false .byte 2 true false false false) = false), rfl⟩
theorem Laws.EncodedKey.drainByte (b : Byte) : Laws.EncodedKey.Statement (.drainByte b) :=
  ⟨(rfl : keyImpossible (mkKey false .byte 6 false false false false) = false), rfl⟩
theorem Laws.EncodedKey.drainLast (b : Byte) : Laws.EncodedKey.Statement (.drainLast b) :=
  ⟨(rfl : keyImpossible (mkKey false .byte 6 false true false false) = false), rfl⟩
theorem Laws.EncodedKey.bodySkip (csumEn last : Bool) (b : Byte) :
    Laws.EncodedKey.Statement (.bodySkip csumEn last b) := by
  refine ⟨(?_ : keyImpossible (mkKey false .byte 3 csumEn last false false) = false), rfl⟩
  cases csumEn <;> cases last <;> rfl
theorem Laws.EncodedKey.bodyTake (csumEn last : Bool) (b : Byte) :
    Laws.EncodedKey.Statement (.bodyTake csumEn last b) := by
  refine ⟨(?_ : keyImpossible (mkKey false .byte 3 csumEn last false true) = false), rfl⟩
  cases csumEn <;> cases last <;> rfl
theorem Laws.EncodedKey.bodyDrop (csumEn last : Bool) (b : Byte) :
    Laws.EncodedKey.Statement (.bodyDrop csumEn last b) := by
  refine ⟨(?_ : keyImpossible (mkKey false .byte 3 csumEn last true false) = false), rfl⟩
  cases csumEn <;> cases last <;> rfl
theorem Laws.EncodedKey.csumOk (b : Byte) : Laws.EncodedKey.Statement (.csumOk b) :=
  ⟨(rfl : keyImpossible (mkKey false .byte 4 false false false true) = false), rfl⟩
theorem Laws.EncodedKey.csumBad (b : Byte) : Laws.EncodedKey.Statement (.csumBad b) :=
  ⟨(rfl : keyImpossible (mkKey false .byte 4 false false false false) = false), rfl⟩
theorem Laws.EncodedKey.tickIdle : Laws.EncodedKey.Statement .tickIdle := ⟨rfl, rfl⟩
theorem Laws.EncodedKey.tickCount : Laws.EncodedKey.Statement .tickCount := ⟨rfl, rfl⟩
theorem Laws.EncodedKey.tickRto : Laws.EncodedKey.Statement .tickRto := ⟨rfl, rfl⟩
theorem Laws.EncodedKey.tickPto : Laws.EncodedKey.Statement .tickPto := ⟨rfl, rfl⟩
theorem Laws.EncodedKey.sinkDone : Laws.EncodedKey.Statement .sinkDone := ⟨rfl, rfl⟩
theorem Laws.EncodedKey.sinkIgn : Laws.EncodedKey.Statement .sinkIgn := ⟨rfl, rfl⟩

end Sys2Proof
end

