-- ==== Sys2Proof/Laws/Step.lean ====
section
/-! SUPPORT. Once and for all what an event, a clock cycle, a step and a run over inputs do: the operation each event selects
as a case split on the control state (30_encoding.md R90: "the same thing" as the key), and the step in terms of it. -/

namespace Sys2Proof.Machine

/-- The operation that `BYTE(b)` selects, as a case split on the control state. In VALID no byte is consumed (R35). -/
def byteOp (s : State) (b : Byte) : Instr :=
  match s.state with
  | .hunting => if hit s b then .huntSync b else .huntMiss b
  | .synced => .lenB0 b
  | .lenPending => if lenOk s b then .lenB1Ok b else if doDrain s b then .lenB1Drain b else .lenB1Bad b
  | .bodyPending =>
    match win s with
    | .skip => .bodySkip s.params.csumEn (lastBody s) b
    | .take => .bodyTake s.params.csumEn (lastBody s) b
    | .drop => .bodyDrop s.params.csumEn (lastBody s) b
  | .checksumPending => if ckOk s b then .csumOk b else .csumBad b
  | .draining => if lastDrain s then .drainLast b else .drainByte b
  | .valid => .sinkIgn

/-- The operation that TICK selects, as a case split on the predicates. -/
def tickOp (s : State) : Instr :=
  if timed s then (if fto s then .tickPto else if bto s then .tickRto else .tickCount) else .tickIdle

theorem decode_byteKey {s : State} (h : s.state ≠ .valid) (b : Byte) :
    decodeKey (byteKey s b) b = .ok (byteOp s b) := by
  unfold byteKey byteOp
  cases hs : s.state with
  | valid => exact absurd hs h
  | hunting => exact decodeKey_hunting _ _
  | synced => exact decodeKey_synced _
  | lenPending => exact decodeKey_lenPending _ _ _
  | bodyPending => exact decodeKey_bodyPending _ _ _ _
  | checksumPending => exact decodeKey_checksumPending _ _
  | draining => exact decodeKey_draining _ _

theorem decode_tickKey (s : State) (b : Byte) : decodeKey (tickKey s) b = .ok (tickOp s) :=
  decodeKey_tick _ _ _ _ _ timed_of_fto timed_of_bto

theorem decode_sinkKey (start s : State) (b : Byte) :
    decodeKey (sinkKey start s) b = .ok (if start.state == .valid then .sinkDone else .sinkIgn) :=
  decodeKey_sink _ _ _

theorem decode_resetKey (s : State) (b : Byte) : decodeKey (resetKey s) b = .ok .reset :=
  decodeKey_reset _ _ _ _ _ _ _

@[simp] theorem tickEvent_eq (inp : PortInputs) (s : State) :
    tickEvent inp s = if inp.tick then exec (tickOp s) s else .next s := by
  unfold tickEvent; rw [dispatch_of_decode (decode_tickKey s 0)]

theorem byteEvent_eq {start s : State} (h : start.state ≠ .valid → s.state ≠ .valid) (inp : PortInputs) :
    byteEvent start inp s =
      if inp.rxValid = true ∧ start.state ≠ .valid then exec (byteOp s inp.rxData) s else .next s := by
  unfold byteEvent
  by_cases hv : start.state = .valid
  · simp [hv]
  · cases hr : inp.rxValid
    · simp
    · simp only [hv, ne_eq, not_false_eq_true, and_self, if_true, Bool.true_and, bne_iff_ne]
      exact dispatch_of_decode (decode_byteKey (h hv) _) s

@[simp] theorem sinkEvent_eq (start s : State) (inp : PortInputs) :
    sinkEvent start inp s = if inp.sinkDone = true ∧ start.state = .valid then exec .sinkDone s else .next s := by
  unfold sinkEvent
  rw [dispatch_of_decode (decode_sinkKey start s 0)]
  cases inp.sinkDone
  · simp
  · by_cases h : start.state = .valid <;> simp [h, exec, execSinkIgn]

/-- A tick neither enters nor leaves VALID (R176). -/
theorem tick_valid_iff {s t : State} (h : exec (tickOp s) s = .next t) : t.state = .valid ↔ s.state = .valid := by
  unfold tickOp at h
  split at h
  · rename_i ht
    have hs : s.state ≠ .valid := by intro hv; simp [timed, hv] at ht
    split at h
    · obtain ⟨-, -, rfl⟩ := exec_tickPto_next.mp h; simp [hs]
    · split at h
      · obtain ⟨-, -, -, rfl⟩ := exec_tickRto_next.mp h; simp [hs]
      · obtain ⟨-, -, -, rfl⟩ := exec_tickCount_next.mp h; simp [hs]
  · obtain ⟨-, rfl⟩ := exec_tickIdle_next.mp h; rfl

/-- A TICK event always has a next state: its key selects an operation whose clause holds. -/
theorem tick_runs (s : State) : ∃ t, exec (tickOp s) s = .next t := by
  unfold tickOp
  cases ht : timed s
  · exact ⟨_, exec_tickIdle_next.mpr ⟨ht, rfl⟩⟩
  · cases hf : fto s
    · cases hb : bto s
      · exact ⟨_, exec_tickCount_next.mpr ⟨ht, hf, hb, rfl⟩⟩
      · exact ⟨_, exec_tickRto_next.mpr ⟨ht, hb, hf, rfl⟩⟩
    · exact ⟨_, exec_tickPto_next.mpr ⟨ht, hf, rfl⟩⟩

/-- What one clock cycle does, in terms of the operations its events select (R176). -/
theorem cycle_next {inp : PortInputs} {s t : State} : cycle inp s = .next t ↔
    (inp.rst = true ∧ t = clearReport (enterHunting s)) ∨
    (inp.rst = false ∧ ∃ s1 s2,
      (if inp.tick then exec (tickOp s) s = .next s1 else s1 = s) ∧
      (if inp.rxValid = true ∧ s.state ≠ .valid then exec (byteOp s1 inp.rxData) s1 = .next s2 else s2 = s1) ∧
      (if inp.sinkDone = true ∧ s.state = .valid then exec .sinkDone s2 = .next t else t = s2)) := by
  unfold cycle
  cases hr : inp.rst
  · simp only [Bool.false_eq_true, if_false, false_and, true_and, false_or, thenDo_next, tickEvent_eq, sinkEvent_eq]
    constructor
    · rintro ⟨s2, ⟨s1, h1, h2⟩, h3⟩
      have hv : s.state ≠ .valid → s1.state ≠ .valid := by
        split at h1
        · intro hs h; exact hs ((tick_valid_iff h1).mp h)
        · cases h1; exact id
      rw [byteEvent_eq hv] at h2
      refine ⟨s1, s2, ?_, ?_, ?_⟩
      · split at h1 <;> simp_all
      · split at h2 <;> simp_all
      · split at h3 <;> simp_all
    · rintro ⟨s1, s2, h1, h2, h3⟩
      have hv : s.state ≠ .valid → s1.state ≠ .valid := by
        split at h1
        · intro hs h; exact hs ((tick_valid_iff h1).mp h)
        · subst h1; exact id
      refine ⟨s2, ⟨s1, ?_, ?_⟩, ?_⟩
      · split at h1 <;> simp_all
      · rw [byteEvent_eq hv]; split at h2 <;> simp_all
      · split at h3 <;> simp_all
  · simp only [if_true, true_and, false_and, or_false, Bool.true_eq_false]
    rw [dispatch_of_decode (decode_resetKey s 0)]
    exact exec_reset_next

/-- What a step is: a cycle with the sampled inputs, of an engine with legal parameters. -/
theorem step_next {s t : State} :
    step s = .next t ↔ s.params.legal = true ∧ cycle (sampledInputs s) (edge s) = .next t := by
  unfold step clockEdge
  cases s.params.legal <;> simp

theorem step_of_sampled {s : State} {inp : PortInputs} (hl : s.params.legal = true) (h : sampledInputs s = inp) :
    step s = cycle inp (edge s) := by
  unfold step clockEdge
  simp [hl, h]

/-- The inputs sampled while a stimulus is placed are its head (R95; log 3). -/
@[simp] theorem sampledInputs_cons {s : State} {inp : PortInputs} {rest : List PortInputs}
    (h : s.stimulus = inp :: rest) : sampledInputs s = inp := by
  simp [sampledInputs, h]

theorem step_of_stimulus {s : State} {inp : PortInputs} {rest : List PortInputs} (hl : s.params.legal = true)
    (h : s.stimulus = inp :: rest) :
    step s = cycle inp { s with errValid := false, errCode := 0, stimulus := rest, clock := s.clock + 1 } := by
  unfold step clockEdge
  simp [hl, sampledInputs, edge, advance, clearReport, h]

@[simp] theorem pushInputs_stimulus (inp : PortInputs) (s : State) :
    (s.pushInputs inp).stimulus = inp :: s.stimulus := rfl

@[simp] theorem pushInputs_params (inp : PortInputs) (s : State) : (s.pushInputs inp).params = s.params := rfl

/-- The state on which the events of a clock edge with given inputs act. -/
def atEdge (s : State) : State := { s with errValid := false, errCode := 0, clock := s.clock + 1 }

theorem step_pushInputs {s : State} (hl : s.params.legal = true) (inp : PortInputs) :
    step (s.pushInputs inp) = cycle inp (atEdge s) :=
  step_of_stimulus (s := s.pushInputs inp) hl rfl

@[simp] theorem runInputs_nil (s : State) : runInputs [] s = .next s := rfl

theorem runInputs_cons {s : State} (hl : s.params.legal = true) (inp : PortInputs) (ins : List PortInputs) :
    runInputs (inp :: ins) s = thenDo (cycle inp (atEdge s)) (runInputs ins) := by
  rw [runInputs, step_pushInputs hl]

/-- A run over two lists of inputs is a run over the second from where the first led. -/
theorem runInputs_append (xs ys : List PortInputs) (s : State) :
    runInputs (xs ++ ys) s = thenDo (runInputs xs s) (runInputs ys) := by
  induction xs generalizing s with
  | nil => rfl
  | cons x xs ih =>
    simp only [List.cons_append, runInputs]
    cases step (s.pushInputs x) with
    | next u => simp only [thenDo]; exact ih u
    | fault r => rfl
    | refused r => rfl

/-! ### What an operation and a clock cycle do, case by case -/

/-- No operation changes the parameters, the stimulus or the clock. -/
theorem exec_keeps_own {i : Instr} {s t : State} (h : exec i s = .next t) :
    t.params = s.params ∧ t.stimulus = s.stimulus ∧ t.clock = s.clock := by
  cases i with
  | reset => cases exec_reset_next.mp h; simp
  | huntMiss b => obtain ⟨-, -, rfl⟩ := exec_huntMiss_next.mp h; simp
  | huntSync b => obtain ⟨-, -, rfl⟩ := exec_huntSync_next.mp h; simp
  | lenB0 b => obtain ⟨-, rfl⟩ := exec_lenB0_next.mp h; simp
  | lenB1Ok b => obtain ⟨-, -, rfl⟩ := exec_lenB1Ok_next.mp h; simp
  | lenB1Bad b => obtain ⟨-, -, -, rfl⟩ := exec_lenB1Bad_next.mp h; simp
  | lenB1Drain b => obtain ⟨-, -, -, rfl⟩ := exec_lenB1Drain_next.mp h; simp
  | drainByte b => obtain ⟨-, -, rfl⟩ := exec_drainByte_next.mp h; simp
  | drainLast b => obtain ⟨-, -, rfl⟩ := exec_drainLast_next.mp h; simp
  | bodySkip c l b => obtain ⟨h1, rfl⟩ := exec_bodySkip_next.mp h; simp
  | bodyTake c l b => obtain ⟨h1, rfl⟩ := exec_bodyTake_next.mp h; simp
  | bodyDrop c l b => obtain ⟨h1, rfl⟩ := exec_bodyDrop_next.mp h; simp
  | csumOk b => obtain ⟨h1, -, rfl⟩ := exec_csumOk_next.mp h; simp
  | csumBad b => obtain ⟨-, -, rfl⟩ := exec_csumBad_next.mp h; simp
  | tickIdle => obtain ⟨-, rfl⟩ := exec_tickIdle_next.mp h; simp
  | tickCount => obtain ⟨-, -, -, rfl⟩ := exec_tickCount_next.mp h; simp
  | tickRto => obtain ⟨-, -, -, rfl⟩ := exec_tickRto_next.mp h; simp
  | tickPto => obtain ⟨-, -, rfl⟩ := exec_tickPto_next.mp h; simp
  | sinkDone => obtain ⟨-, rfl⟩ := exec_sinkDone_next.mp h; simp
  | sinkIgn => cases exec_sinkIgn_next.mp h; simp

/-- Everything a tick can do (R172 to R175). -/
theorem tickOp_cases {s t : State} (h : exec (tickOp s) s = .next t) :
    (timed s = false ∧ t = s) ∨
    (timed s = true ∧ fto s = true ∧ t = raiseFailure .payloadTimeout s) ∨
    (timed s = true ∧ fto s = false ∧ bto s = true ∧ t = raiseFailure .readTimeout s) ∨
    (timed s = true ∧ fto s = false ∧ bto s = false ∧
      t = { s with
            byteTimer := s.byteTimer + 1
            frameTimer := if frameRun s then s.frameTimer + 1 else s.frameTimer }) := by
  unfold tickOp at h
  split at h
  · rename_i ht
    split at h
    · obtain ⟨-, h2, rfl⟩ := exec_tickPto_next.mp h; simp [ht, h2]
    · split at h
      · obtain ⟨-, h2, h3, rfl⟩ := exec_tickRto_next.mp h; simp [ht, h2, h3]
      · obtain ⟨-, h2, h3, rfl⟩ := exec_tickCount_next.mp h; simp [ht, h2, h3]
  · obtain ⟨h2, rfl⟩ := exec_tickIdle_next.mp h; simp [h2]

/-- A clock cycle in which only a byte is offered, outside VALID, runs the operation the byte selects. -/
theorem cycle_offer {s : State} (hv : s.state ≠ .valid) (b : Byte) :
    cycle (PortInputs.offer b) s = exec (byteOp s b) s := by
  have e1 : tickEvent (PortInputs.offer b) s = .next s := rfl
  have e2 : byteEvent s (PortInputs.offer b) s = exec (byteOp s b) s := by
    rw [byteEvent_eq (fun _ => hv)]; rw [if_pos ⟨rfl, hv⟩]; rfl
  have e3 : ∀ u, sinkEvent s (PortInputs.offer b) u = .next u := fun u => rfl
  show thenDo (thenDo (tickEvent (PortInputs.offer b) s) (byteEvent s (PortInputs.offer b)))
    (sinkEvent s (PortInputs.offer b)) = _
  rw [e1]; simp only [thenDo_of_next, e2]
  cases exec (byteOp s b) s <;> rfl

/-- A clock cycle with a tick only runs the operation the tick selects. -/
theorem cycle_tickOnly (s : State) : cycle PortInputs.tickOnly s = exec (tickOp s) s := by
  show thenDo (thenDo (tickEvent PortInputs.tickOnly s) _) _ = _
  rw [tickEvent_eq]
  show thenDo (thenDo (exec (tickOp s) s) (fun u => .next u)) (fun u => .next u) = _
  cases exec (tickOp s) s <;> rfl

/-- The rest of a run, after its first clock cycle. -/
theorem runInputs_of_cycle {s t : State} (hl : s.params.legal = true) {inp : PortInputs}
    (h : cycle inp (atEdge s) = .next t) (rest : List PortInputs) :
    runInputs (inp :: rest) s = runInputs rest t := by
  rw [runInputs_cons hl, h]; rfl

/-- The rest of a run, after a part of it. -/
theorem runInputs_of_run {s t : State} {xs : List PortInputs} (h : runInputs xs s = .next t) (ys : List PortInputs) :
    runInputs (xs ++ ys) s = runInputs ys t := by
  rw [runInputs_append, h]; rfl

/-! ### The first clock edges of an environment -/

@[simp] theorem Environment.first_zero (env : Environment) : env.first 0 = [] := rfl

@[simp] theorem Environment.first_length (env : Environment) (n : Nat) : (env.first n).length = n := by
  simp [Environment.first]

theorem Environment.first_succ (env : Environment) (n : Nat) : env.first (n + 1) = env.first n ++ [env n] := by
  simp [Environment.first, List.range_succ]

theorem Environment.mem_first {env : Environment} {n : Nat} {i : PortInputs} :
    i ∈ env.first n ↔ ∃ k, k < n ∧ env k = i := by
  simp [Environment.first]

/-- What stands at the beginning of the first clock edges are the first clock edges again. -/
theorem Environment.prefix_first {env : Environment} {n : Nat} {pre : List PortInputs} (h : pre <+: env.first n) :
    pre = env.first pre.length := by
  have hn : pre.length ≤ n := by simpa using h.length_le
  rw [List.prefix_iff_eq_take.mp h, List.length_take, Environment.first, Environment.first, ← List.map_take,
    List.take_range]
  simp

/-! ### The host's runner, one step at a time -/

theorem run_next (M : Host.Core) (k : Nat) {s t : M.State} (h : M.step s = .next t) : M.run (k + 1) s = M.run k t := by
  rw [Host.Core.run, h]

theorem run_fault (M : Host.Core) (k : Nat) {s : M.State} {r : M.Fault} (h : M.step s = .fault r) :
    M.run (k + 1) s = .fault r := by
  rw [Host.Core.run, h]

theorem run_refused (M : Host.Core) (k : Nat) {s : M.State} {r : M.Refusal} (h : M.step s = .refused r) :
    M.run (k + 1) s = .refused r := by
  rw [Host.Core.run, h]

/-- The machine's runner goes on from where a step led. -/
theorem core_run_succ (k : Nat) (s : State) :
    Sys2Proof.core.run (k + 1) s = thenDo (step s) (fun t => Sys2Proof.core.run k t) := by
  cases h : step s with
  | next t => exact run_next Sys2Proof.core k h
  | fault r => exact run_fault Sys2Proof.core k h
  | refused r => exact run_refused Sys2Proof.core k h

end Sys2Proof.Machine
end

