-- ==== Sys2Proof/Laws/Wire.lean ====
section
/-! SUPPORT. The XOR-fold, the two length bytes and paced runs: what the wire format gives (30_encoding.md R80 to R86,
42_framebodycollector.md R138). -/

namespace Sys2Proof.Machine

theorem xorFold_nil : xorFold [] = 0 := rfl

theorem foldl_xor_init (xs : List Byte) (a : Byte) : xs.foldl (· ^^^ ·) a = a ^^^ xorFold xs := by
  induction xs generalizing a with
  | nil => simp [xorFold]
  | cons x xs ih =>
    simp only [List.foldl_cons, xorFold]
    rw [ih, ih (0 ^^^ x)]; simp [BitVec.xor_assoc]

theorem xorFold_append (xs ys : List Byte) : xorFold (xs ++ ys) = xorFold xs ^^^ xorFold ys := by
  rw [xorFold, List.foldl_append, foldl_xor_init]; rfl

theorem xorFold_cons (x : Byte) (ys : List Byte) : xorFold (x :: ys) = x ^^^ xorFold ys := by
  rw [xorFold, List.foldl_cons, foldl_xor_init]; simp

/-- The length field is two bytes. -/
theorem lenBytes_two (p : Params) (n : Nat) : ∃ b0 b1, p.lenBytes n = [b0, b1] := by
  unfold Params.lenBytes; split <;> exact ⟨_, _, rfl⟩

theorem paced_cons (g : Nat) (gs : List Nat) (b : Byte) (bs : List Byte) :
    paced (g :: gs) (b :: bs) = List.replicate g PortInputs.tickOnly ++ PortInputs.offer b :: paced gs bs := rfl

theorem paced_append (gs gs' : List Nat) (bs bs' : List Byte) (h : gs.length = bs.length) :
    paced (gs ++ gs') (bs ++ bs') = paced gs bs ++ paced gs' bs' := by
  induction gs generalizing bs with
  | nil => cases bs with
    | nil => rfl
    | cons => simp at h
  | cons g gs ih => cases bs with
    | nil => simp at h
    | cons b bs => simp at h; simp [paced, ih bs h]

/-- Bytes with no ticks between them. -/
theorem offerAll_eq_paced (bs : List Byte) : offerAll bs = paced (List.replicate bs.length 0) bs := by
  induction bs with
  | nil => rfl
  | cons b bs ih =>
    simp only [offerAll, List.map_cons, List.length_cons, List.replicate_succ, paced, List.replicate_zero,
      List.nil_append] at ih ⊢
    rw [ih]

end Sys2Proof.Machine
end

