-- ==== Sys2Proof/Tests/Slice0.lean ====
section
/-! SUPPORT. Tests. Expected results are from 95_test_vectors.md (its vector is named) or worked out by hand from the rule
named. First the checks of WellFormed, then the decoder, then one step of each operation, then for each statement with
hypotheses a concrete input that meets them all together (`witness_<name>`). -/

namespace Sys2Proof.Tests

open Sys2Proof.Machine

/-! ## Helpers -/

/-- Configuration A of 95_test_vectors.md. -/
def paramsA : Params := { Config.referenceParams with drainEn := false, drainCap := 12 }

/-- Configuration DR. -/
def paramsDR : Params := Config.referenceParams

/-- Configuration A33. -/
def paramsA33 : Params := { paramsA with frameTimeout := 3 }

/-- Configuration NE: the receiver takes no pixel, after the end of the frame. -/
def paramsNE : Params := { paramsA with offsetPixels := 4, countPixels := 0 }

/-- Configuration Z: the whole frame, without checksum. -/
def paramsZ : Params := { paramsA with offsetPixels := 0, countPixels := 4, csumEn := false }

/-- After reset, with parameters A. -/
def hunting : State := State.powerOn paramsA

/-- After the byte `AA`. -/
def candidate : State := { hunting with prevValid := true, prev := 0xAA }

/-- After `AA 55`. -/
def synced (p : Params) : State := { State.powerOn p with state := .synced }

/-- After `AA 55 b`. -/
def lenPending (p : Params) (b : Byte) : State :=
  { State.powerOn p with state := .lenPending, lenB0 := b, xorAcc := b }

/-- In the payload at position `n`, with fold `x`. -/
def body (p : Params) (n : Half) (x : Byte) : State :=
  { State.powerOn p with state := .bodyPending, lenB0 := 0x0C, len := 12, pos := n, xorAcc := x }

/-- Waiting for the checksum byte `4C`, the window `20 21 22 30 31 32` staged. -/
def checksumPending (p : Params) : State :=
  { State.powerOn p with
    state := .checksumPending, lenB0 := 0x0C, len := 12, pos := 12, xorAcc := 0x4C,
    stage := [(0, 0x20), (1, 0x21), (2, 0x22), (3, 0x30), (4, 0x31), (5, 0x32)] }

/-- Showing the segment `20 21 22 30 31 32`. -/
def showing : State :=
  { hunting with state := .valid, seg := [(0, 0x20), (1, 0x21), (2, 0x22), (3, 0x30), (4, 0x31), (5, 0x32)] }

/-- With `n` bytes left to drain. -/
def draining (n : Half) : State := { State.powerOn paramsDR with state := .draining, len := 5, drainCnt := n }

/-- The state after one step with the inputs `inp`. -/
def after (inp : PortInputs) (s : State) : Option State :=
  match step (s.pushInputs inp) with
  | .next t => some t
  | .fault _ => none
  | .refused _ => none

/-- Why an operation stops, if it stops. -/
def stop? (o : Result) : Option Refusal :=
  match o with
  | .refused r => some r
  | .next _ => none
  | .fault _ => none

theorem next_of_after {inp : PortInputs} {s : State} (h : (after inp s).isSome = true) :
    ∃ t, step (s.pushInputs inp) = .next t := by
  unfold after at h
  split at h
  · exact ⟨_, ‹_›⟩
  · cases h
  · cases h

/-! ## WellFormed: each check refuses an ill-formed term -/

theorem test_legal_A : paramsA.legal = true := by decide
/-- R6 (a). -/
theorem test_illegal_window : Params.legal { paramsA with offsetPixels := 3 } = false := by decide
/-- R6 (b). -/
theorem test_illegal_no_pixels :
    Params.legal { paramsA with totalPixels := 0, offsetPixels := 0, countPixels := 0 } = false := by decide
theorem test_illegal_too_many_pixels : Params.legal { paramsA with totalPixels := 21846 } = false := by decide
/-- R6 (c). -/
theorem test_illegal_byte_timeout_zero : Params.legal { paramsA with byteTimeout := 0 } = false := by decide
theorem test_illegal_byte_timeout_large : Params.legal { paramsA with byteTimeout := 65536 } = false := by decide
theorem test_illegal_frame_timeout_zero : Params.legal { paramsA with frameTimeout := 0 } = false := by decide
theorem test_illegal_frame_timeout_large : Params.legal { paramsA with frameTimeout := 65536 } = false := by decide
/-- R6 (d). -/
theorem test_illegal_drain_cap : Params.legal { paramsA with drainCap := 65536 } = false := by decide
/-- R6: the largest legal values. -/
theorem test_legal_largest :
    Params.legal { paramsA with
      totalPixels := 21845, byteTimeout := 65535, frameTimeout := 65535, drainCap := 65535 } = true := by decide

theorem test_ill_huntSync : Instr.wellFormed paramsA (.huntSync 0x54) = false := by decide
theorem test_ill_lenB1Drain : Instr.wellFormed paramsA (.lenB1Drain 0) = false := by decide
theorem test_ill_lenB1Drain_cap : Instr.wellFormed { paramsDR with drainCap := 0 } (.lenB1Drain 0) = false := by decide
theorem test_ill_drainByte : Instr.wellFormed { paramsDR with drainCap := 1 } (.drainByte 0) = false := by decide
theorem test_ill_drainLast : Instr.wellFormed paramsA (.drainLast 0) = false := by decide
theorem test_ill_bodySkip_csum : Instr.wellFormed paramsA (.bodySkip false false 0) = false := by decide
theorem test_ill_bodySkip_offset : Instr.wellFormed paramsZ (.bodySkip false false 0) = false := by decide
theorem test_ill_bodySkip_last : Instr.wellFormed paramsA (.bodySkip true true 0) = false := by decide
theorem test_ill_bodyTake_count : Instr.wellFormed paramsNE (.bodyTake true false 0) = false := by decide
theorem test_ill_bodyTake_last : Instr.wellFormed paramsA (.bodyTake true true 0) = false := by decide
theorem test_ill_bodyDrop : Instr.wellFormed paramsZ (.bodyDrop false false 0) = false := by decide
theorem test_ill_csumOk : Instr.wellFormed paramsZ (.csumOk 0) = false := by decide
theorem test_ill_csumBad : Instr.wellFormed paramsZ (.csumBad 0) = false := by decide
theorem test_ill_tickCount : Instr.wellFormed { paramsA with byteTimeout := 1 } .tickCount = false := by decide

/-! ## Decode: one word of each operation, written out from the patterns of R93 (`rst ev st c`, then the operand byte above
it); those that are vectors K1 to K14 are named -/

theorem test_decode_reset : decodeTableWord 16 0b1_00_000_0000 = some .reset := by decide
/-- R91: with `rst = 1` the rest is ignored. -/
theorem test_decode_reset_any : decodeTableWord 16 0b1_11_111_1111 = some .reset := by decide
theorem test_decode_huntMiss : decodeTableWord 24 0b10101010_000000_0_00_000_0000 = some (.huntMiss 0xAA) := by decide
/-- K1. -/
theorem test_decode_huntSync : decodeTableWord 24 0b01010101_000000_0_00_000_0001 = some (.huntSync 0x55) := by decide
theorem test_decode_lenB0 : decodeTableWord 24 0b00001100_000000_0_00_001_0000 = some (.lenB0 0x0C) := by decide
/-- K2. -/
theorem test_decode_lenB1Ok : decodeTableWord 24 0b00000000_000000_0_00_010_0001 = some (.lenB1Ok 0) := by decide
/-- K4. -/
theorem test_decode_lenB1Ok_drain : decodeTableWord 24 0b00000000_000000_0_00_010_1001 = some (.lenB1Ok 0) := by decide
theorem test_decode_lenB1Bad : decodeTableWord 24 0b00000001_000000_0_00_010_0000 = some (.lenB1Bad 1) := by decide
/-- K3. -/
theorem test_decode_lenB1Drain : decodeTableWord 24 0b00000000_000000_0_00_010_1000 = some (.lenB1Drain 0) := by decide
theorem test_decode_drainByte : decodeTableWord 24 0b00000001_000000_0_00_110_0000 = some (.drainByte 1) := by decide
/-- K14. -/
theorem test_decode_drainLast : decodeTableWord 24 0b00000101_000000_0_00_110_0100 = some (.drainLast 5) := by decide
theorem test_decode_bodySkip :
    decodeTableWord 24 0b00010000_000000_0_00_011_1000 = some (.bodySkip true false 0x10) := by decide
/-- K5. -/
theorem test_decode_bodyTake :
    decodeTableWord 24 0b00100000_000000_0_00_011_1001 = some (.bodyTake true false 0x20) := by decide
/-- K6. -/
theorem test_decode_bodyDrop :
    decodeTableWord 24 0b01000010_000000_0_00_011_1110 = some (.bodyDrop true true 0x42) := by decide
/-- K7. -/
theorem test_decode_csumOk : decodeTableWord 24 0b01001100_000000_0_00_100_0001 = some (.csumOk 0x4C) := by decide
/-- K8. -/
theorem test_decode_csumBad : decodeTableWord 24 0b01001101_000000_0_00_100_0000 = some (.csumBad 0x4D) := by decide
/-- K11. -/
theorem test_decode_tickIdle : decodeTableWord 16 0b0_01_000_0000 = some .tickIdle := by decide
theorem test_decode_tickCount : decodeTableWord 16 0b0_01_011_0100 = some .tickCount := by decide
/-- K9. -/
theorem test_decode_tickRto : decodeTableWord 16 0b0_01_001_0101 = some .tickRto := by decide
/-- K10. -/
theorem test_decode_tickPto : decodeTableWord 16 0b0_01_011_0111 = some .tickPto := by decide
/-- K12. -/
theorem test_decode_sinkDone : decodeTableWord 16 0b0_10_101_0001 = some .sinkDone := by decide
/-- K13. -/
theorem test_decode_sinkIgn : decodeTableWord 16 0b0_10_001_0000 = some .sinkIgn := by decide
/-- R94: `ev = 11`, BYTE in VALID, `st = 7`. -/
theorem test_decode_none :
    decodeTableWord 16 0b0_11_000_0000 = none ∧ decodeTableWord 24 0b0_00_101_0000 = none ∧
      decodeTableWord 16 0b0_01_111_0000 = none := by decide
/-- The refusals of the layout (log 11): too few bytes, and a bit above bit 9. -/
theorem test_decode_layout :
    (decode [0x80]).isOk = false ∧ (decode [0x00, 0x00]).isOk = false ∧ (decode [0x80, 0x04]).isOk = false := by decide
/-- The rows stand in the table's order. -/
theorem test_rows_in_table_order : opRows.map (·.mnemonic) =
    ["RESET", "HUNT_MISS", "HUNT_SYNC", "LEN_B0", "LEN_B1_OK", "LEN_B1_BAD", "LEN_B1_DRAIN", "DRAIN_BYTE", "DRAIN_LAST",
      "BODY_SKIP", "BODY_TAKE", "BODY_DROP", "CSUM_OK", "CSUM_BAD", "TICK_IDLE", "TICK_COUNT", "TICK_RTO", "TICK_PTO",
      "SINK_DONE", "SINK_IGN"] := rfl

/-! ## One step of each operation -/

/-- RS1: RESET during the payload; `stage` keeps what was written. -/
theorem test_step_reset :
    (after { rst := true } { body paramsA 4 0x3F with stage := [(0, 0x20)], byteTimer := 1, frameTimer := 1 }).map
      (fun t => (t.state, t.pos, t.frameTimer, t.stage)) = some (.hunting, 0, 0, [(0, 0x20)]) := by decide
/-- RS5: reset dominates the other inputs. -/
theorem test_step_reset_dominates :
    (after { rst := true, tick := true, rxValid := true, rxData := 0xAA, sinkDone := true } candidate).map
      (fun t => (t.state, t.prevValid, t.prev)) = some (.hunting, false, 0) := by decide
/-- SH1: a lone `MARKER2` cannot sync. -/
theorem test_step_huntMiss :
    (after (.offer 0x55) hunting).map (fun t => (t.state, t.prevValid, t.prev)) = some (.hunting, true, 0x55) := by decide
/-- SH3: the second `AA` becomes the new candidate. -/
theorem test_step_huntMiss_overlap :
    (after (.offer 0xAA) candidate).map (fun t => (t.state, t.prevValid, t.prev)) = some (.hunting, true, 0xAA) := by
  decide
/-- SH2. -/
theorem test_step_huntSync :
    (after (.offer 0x55) candidate).map (fun t => (t.state, t.prevValid, t.prev, t.byteTimer)) =
      some (.synced, false, 0, 0) := by decide
/-- P1: `0C` after the marker. -/
theorem test_step_lenB0 :
    (after (.offer 0x0C) { synced paramsA with byteTimer := 2 }).map
      (fun t => (t.state, t.lenB0, t.xorAcc, t.byteTimer)) = some (.lenPending, 0x0C, 0x0C, 0) := by decide
/-- P1: `0C 00` is 12 in little-endian order. -/
theorem test_step_lenB1Ok :
    (after (.offer 0x00) (lenPending paramsA 0x0C)).map (fun t => (t.state, t.len, t.xorAcc, t.pos)) =
      some (.bodyPending, 12, 0x0C, 0) := by decide
/-- R82: `00 0C` is 12 in big-endian order. -/
theorem test_step_lenB1Ok_bigEndian :
    (after (.offer 0x0C) (lenPending { paramsA with lenBigEndian := true } 0x00)).map (fun t => (t.state, t.len)) =
      some (.bodyPending, 12) := by decide
/-- RS3: `0D 00` is a wrong length. -/
theorem test_step_lenB1Bad :
    (after (.offer 0x00) (lenPending paramsA 0x0D)).map (fun t => (t.state, t.lenB0, t.errValid, t.errCode)) =
      some (.hunting, 0, true, 0) := by decide
/-- R124: `05 00` with drain reports at once and leaves 5 bytes to drain. -/
theorem test_step_lenB1Drain :
    (after (.offer 0x00) (lenPending paramsDR 0x05)).map (fun t => (t.state, t.len, t.drainCnt, t.errValid, t.errCode)) =
      some (.draining, 5, 5, true, 0) := by decide
/-- R127: the cap. -/
theorem test_step_lenB1Drain_cap :
    (after (.offer 0x00) (lenPending { paramsDR with drainCap := 4 } 0x05)).map (·.drainCnt) = some 4 := by decide
theorem test_step_drainByte :
    (after (.offer 0xAA) { draining 2 with byteTimer := 2 }).map (fun t => (t.state, t.drainCnt, t.byteTimer)) =
      some (.draining, 1, 0) := by decide
theorem test_step_drainLast :
    (after (.offer 0x05) (draining 1)).map (fun t => (t.state, t.len, t.drainCnt, t.errValid)) =
      some (.hunting, 0, 0, false) := by decide
/-- P1: the first payload byte. -/
theorem test_step_bodySkip :
    (after (.offer 0x10) (body paramsA 0 0x0C)).map (fun t => (t.state, t.pos, t.xorAcc, t.stage)) =
      some (.bodyPending, 1, 0x1C, []) := by decide
/-- R150 with R135: the last byte of a frame of which the receiver takes nothing. -/
theorem test_step_bodySkip_last :
    (after (.offer 0x42) (body paramsNE 11 0x0E)).map (fun t => (t.state, t.pos, t.xorAcc)) =
      some (.checksumPending, 12, 0x4C) := by decide
/-- P1: payload byte 3 is the first of the window. -/
theorem test_step_bodyTake :
    (after (.offer 0x20) (body paramsA 3 0x1F)).map (fun t => (t.state, t.pos, t.xorAcc, t.stage)) =
      some (.bodyPending, 4, 0x3F, [(0, 0x20)]) := by decide
/-- R135, R151: without checksum the last byte is staged and then copied in the same step. -/
theorem test_step_bodyTake_last :
    (after (.offer 0x42) { body paramsZ 11 0 with stage := [(0, 0x10)] }).map (fun t => (t.state, t.seg)) =
      some (.valid, [(0, 0x10), (11, 0x42)]) := by decide
/-- P1: payload byte 9 is the first after the window. -/
theorem test_step_bodyDrop :
    (after (.offer 0x40) (body paramsA 9 0x0F)).map (fun t => (t.state, t.pos, t.xorAcc, t.stage)) =
      some (.bodyPending, 10, 0x4F, []) := by decide
/-- P1: the last payload byte. -/
theorem test_step_bodyDrop_last :
    (after (.offer 0x42) (body paramsA 11 0x0E)).map (fun t => (t.state, t.pos, t.xorAcc)) =
      some (.checksumPending, 12, 0x4C) := by decide
/-- P1. -/
theorem test_step_csumOk :
    (after (.offer 0x4C) (checksumPending paramsA)).map (fun t => (t.state, t.seg, t.len, t.xorAcc)) =
      some (.valid, [(0, 0x20), (1, 0x21), (2, 0x22), (3, 0x30), (4, 0x31), (5, 0x32)], 0, 0) := by decide
/-- R137. -/
theorem test_step_csumBad :
    (after (.offer 0x4D) { checksumPending paramsA with seg := [(0, 0xE0)] }).map
      (fun t => (t.state, t.seg, t.errValid, t.errCode)) = some (.hunting, [(0, 0xE0)], true, 3) := by decide
/-- TO1. -/
theorem test_step_tickIdle :
    (after .tickOnly candidate).map (fun t => (t.state, t.prevValid, t.byteTimer)) = some (.hunting, true, 0) := by decide
/-- TO14: both timers run after payload byte 0. -/
theorem test_step_tickCount :
    (after .tickOnly { body paramsA 1 0x1C with byteTimer := 1, frameTimer := 1 }).map
      (fun t => (t.state, t.byteTimer, t.frameTimer)) = some (.bodyPending, 2, 2) := by decide
/-- TO4: before payload byte 0 the frame timer does not run. -/
theorem test_step_tickCount_header :
    (after .tickOnly (body paramsA 0 0x0C)).map (fun t => (t.byteTimer, t.frameTimer)) = some (1, 0) := by decide
/-- TO2: the third tick. -/
theorem test_step_tickRto :
    (after .tickOnly { synced paramsA with byteTimer := 2 }).map (fun t => (t.state, t.errValid, t.errCode)) =
      some (.hunting, true, 1) := by decide
/-- R175: where both timers expire in one tick, PayloadTimeout is reported. -/
theorem test_step_tickPto :
    (after .tickOnly { checksumPending paramsA33 with byteTimer := 2, frameTimer := 2 }).map
      (fun t => (t.state, t.errValid, t.errCode)) = some (.hunting, true, 2) := by decide
/-- P1: the segment stays after the handshake. -/
theorem test_step_sinkDone :
    (after .sinkOnly showing).map (fun t => (t.state, t.seg)) = some (.hunting, showing.seg) := by decide
/-- SE11. -/
theorem test_step_sinkIgn :
    (after .sinkOnly candidate).map (fun t => (t.state, t.prevValid, t.prev)) = some (.hunting, true, 0xAA) := by decide
/-- SE10: `sink_done` in the cycle that enters VALID is judged by the state at the start of the cycle. -/
theorem test_step_sinkIgn_entering :
    (after { rxValid := true, rxData := 0x4C, sinkDone := true } (checksumPending paramsA)).map (·.state) =
      some .valid := by decide
/-- TO9: the tick expires first, and the byte of the same cycle is then hunted. -/
theorem test_step_tick_then_byte :
    (after { tick := true, rxValid := true, rxData := 0x10 } { body paramsA 0 0x0C with byteTimer := 2 }).map
      (fun t => (t.state, t.prev, t.errValid, t.errCode)) = some (.hunting, 0x10, true, 1) := by decide
/-- SE12: in VALID a tick and an offered byte do nothing. -/
theorem test_step_valid :
    (after { tick := true, rxValid := true, rxData := 0xAA, sinkDone := true } showing).map
      (fun t => (t.state, t.prevValid)) = some (.hunting, false) := by decide
/-- R6: no step for an illegal record. -/
theorem test_step_illegal :
    stop? (step (State.powerOn { paramsA with byteTimeout := 0 })) = some .illegalParameters := by decide
/-- S6: `seg_rd_data` packs red, green, blue from the top. -/
theorem test_read_port : segRdData showing 0 = 0x202122 ∧ segRdData showing 1 = 0x303132 := by decide
/-- Section 1: the packet `GOOD`. -/
theorem test_frame_good :
    paramsA.frame [0x10, 0x11, 0x12, 0x20, 0x21, 0x22, 0x30, 0x31, 0x32, 0x40, 0x41, 0x42] =
      [0xAA, 0x55, 0x0C, 0x00, 0x10, 0x11, 0x12, 0x20, 0x21, 0x22, 0x30, 0x31, 0x32, 0x40, 0x41, 0x42, 0x4C] := by decide
/-- `withFetchWord` at State.reset: the next step runs the placed operation. -/
theorem test_place_bodyTake :
    (match step (State.reset.withFetchWord 24 0x200039) with
      | .next t => some (t.state, t.stage)
      | _ => none) = some (.bodyPending, [(0, 0x20)]) := by decide

/-! ## Witnesses: the operations -/

theorem witness_HuntMissRemembersTheByte :
    hunting.state = .hunting ∧
      ¬ (hunting.prevValid = true ∧ hunting.prev = hunting.params.marker1 ∧ (0x55 : Byte) = hunting.params.marker2) ∧
    candidate.state = .hunting ∧
      ¬ (candidate.prevValid = true ∧ candidate.prev = candidate.params.marker1 ∧
        (0xAA : Byte) = candidate.params.marker2) := by decide
theorem witness_HuntSyncEntersSynced :
    candidate.state = .hunting ∧ candidate.prevValid = true ∧ candidate.prev = candidate.params.marker1 ∧
      (0x55 : Byte) = candidate.params.marker2 := by decide
theorem witness_LenB0KeepsTheFirstLengthByte : (synced paramsA).state = .synced := by decide
theorem witness_LenB1OkEntersTheBody :
    (lenPending paramsA 0x0C).state = .lenPending ∧
      (dlen (lenPending paramsA 0x0C) 0x00).toNat = (lenPending paramsA 0x0C).params.expLen := by decide
/-- Both ways in which nothing is drained: no drain, and a declared length of 0. -/
theorem witness_LenB1BadRaisesHeaderMismatch :
    (lenPending paramsA 0x0D).state = .lenPending ∧
      (dlen (lenPending paramsA 0x0D) 0x00).toNat ≠ (lenPending paramsA 0x0D).params.expLen ∧
      (lenPending paramsA 0x0D).params.drainEn = false ∧
    (lenPending paramsDR 0x00).state = .lenPending ∧
      (dlen (lenPending paramsDR 0x00) 0x00).toNat ≠ (lenPending paramsDR 0x00).params.expLen ∧
      min (dlen (lenPending paramsDR 0x00) 0x00).toNat (lenPending paramsDR 0x00).params.drainCap = 0 := by decide
theorem witness_LenB1DrainReportsAndDrains :
    (lenPending paramsDR 0x01).state = .lenPending ∧
      (dlen (lenPending paramsDR 0x01) 0x00).toNat ≠ (lenPending paramsDR 0x01).params.expLen ∧
      (lenPending paramsDR 0x01).params.drainEn = true ∧
      0 < min (dlen (lenPending paramsDR 0x01) 0x00).toNat (lenPending paramsDR 0x01).params.drainCap := by decide
theorem witness_DrainByteCountsDown : (draining 2).state = .draining ∧ 1 < (draining 2).drainCnt.toNat := by decide
theorem witness_DrainLastReturnsToHunting : (draining 1).state = .draining ∧ (draining 1).drainCnt.toNat = 1 := by decide
/-- Positions 0 and 2, and the last position of a frame of which nothing is taken. -/
theorem witness_BodySkipFoldsAndCounts :
    (body paramsA 0 0).state = .bodyPending ∧ (body paramsA 0 0).pos.toNat < paramsA.expLen ∧
      (body paramsA 0 0).pos.toNat < paramsA.winLo ∧
    (body paramsA 2 0).pos.toNat < paramsA.expLen ∧ (body paramsA 2 0).pos.toNat < paramsA.winLo ∧
    (body paramsNE 11 0).pos.toNat + 1 = paramsNE.expLen ∧ (body paramsNE 11 0).pos.toNat < paramsNE.winLo := by decide
/-- The first and the last position of the window, and a window that ends the frame. -/
theorem witness_BodyTakeStagesTheByte :
    (body paramsA 3 0).state = .bodyPending ∧ (body paramsA 3 0).pos.toNat < paramsA.expLen ∧
      paramsA.winLo ≤ (body paramsA 3 0).pos.toNat ∧ (body paramsA 3 0).pos.toNat < paramsA.winHi ∧
    paramsA.winLo ≤ (body paramsA 8 0).pos.toNat ∧ (body paramsA 8 0).pos.toNat < paramsA.winHi ∧
    (body paramsZ 11 0).pos.toNat + 1 = paramsZ.expLen ∧ paramsZ.winLo ≤ (body paramsZ 11 0).pos.toNat ∧
      (body paramsZ 11 0).pos.toNat < paramsZ.winHi := by decide
/-- The first position after the window, and the last of the payload. -/
theorem witness_BodyDropFoldsAndCounts :
    (body paramsA 9 0).state = .bodyPending ∧ (body paramsA 9 0).pos.toNat < paramsA.expLen ∧
      paramsA.winHi ≤ (body paramsA 9 0).pos.toNat ∧
    (body paramsA 11 0).pos.toNat + 1 = paramsA.expLen ∧ paramsA.winHi ≤ (body paramsA 11 0).pos.toNat := by decide
theorem witness_CsumOkAcceptsTheFrame :
    ((checksumPending paramsA).state = .checksumPending ∧ (0x4C : Byte) = (checksumPending paramsA).xorAcc) ∧
    (checksumPending paramsA).params.csumEn = true ∧ (checksumPending paramsA).state ≠ .valid ∧
    ∃ t, exec (.csumOk 0x4C) (checksumPending paramsA) = .next t ∧ t.state = .valid :=
  ⟨by decide, by decide, by decide, _, rfl, rfl⟩
theorem witness_CsumBadRaisesChecksumMismatch :
    (checksumPending paramsA).state = .checksumPending ∧ (0x4D : Byte) ≠ (checksumPending paramsA).xorAcc := by decide
theorem witness_TickIdleChangesNothing : hunting.state = .hunting ∧ showing.state = .valid := by decide
/-- A state without and one with a running frame timer. -/
theorem witness_TickCountCountsTheRunningTimers :
    (synced paramsA).state ≠ .hunting ∧ (synced paramsA).state ≠ .valid ∧
      (synced paramsA).byteTimer.toNat + 1 < (synced paramsA).params.byteTimeout ∧ frameRun (synced paramsA) = false ∧
    (body paramsA 1 0).state ≠ .hunting ∧ (body paramsA 1 0).state ≠ .valid ∧
      (body paramsA 1 0).byteTimer.toNat + 1 < (body paramsA 1 0).params.byteTimeout ∧
      frameRun (body paramsA 1 0) = true ∧
      (body paramsA 1 0).frameTimer.toNat + 1 < (body paramsA 1 0).params.frameTimeout := by decide
theorem witness_TickRtoRaisesReadTimeout :
    let s : State := { synced paramsA with byteTimer := 2 }
    let u : State := { body paramsA 1 0 with byteTimer := 2 }
    (s.state ≠ .hunting ∧ s.state ≠ .valid ∧ s.params.byteTimeout ≤ s.byteTimer.toNat + 1 ∧ frameRun s = false) ∧
    (u.state ≠ .hunting ∧ u.state ≠ .valid ∧ u.params.byteTimeout ≤ u.byteTimer.toNat + 1 ∧
      u.frameTimer.toNat + 1 < u.params.frameTimeout) := by decide
theorem witness_TickPtoRaisesPayloadTimeout :
    let s : State := { body paramsA 1 0 with frameTimer := 9 }
    let u : State := { checksumPending paramsA33 with frameTimer := 2 }
    (s.state = .bodyPending ∧ 1 ≤ s.pos.toNat ∧ s.params.frameTimeout ≤ s.frameTimer.toNat + 1) ∧
    (u.state = .checksumPending ∧ u.params.frameTimeout ≤ u.frameTimer.toNat + 1) := by decide
theorem witness_SinkDoneEndsTheReceiveCycle : showing.state = .valid := by decide
theorem witness_SinkIgnChangesNothing : hunting.state ≠ .valid := by decide
/-- An operation that is selected and one that is not, of each kind. -/
theorem witness_OperationsRunWhereTheirKeySelectsThem :
    hunting.inv = true ∧ (Instr.huntMiss 0x55).operand = some 0x55 ∧ hunting.state ≠ .valid ∧
      decodeTableWord 24 (0x550000 + (byteKey hunting 0x55).toNat) = some (.huntMiss 0x55) ∧
      (Instr.lenB0 0x55).operand = some 0x55 ∧ stop? (exec (.lenB0 0x55) hunting) = some .notSelected ∧
      decodeTableWord 16 (tickKey hunting).toNat = some .tickIdle ∧
      stop? (exec .tickCount hunting) = some .notSelected ∧ stop? (exec .sinkDone hunting) = some .notSelected ∧
      showing.inv = true ∧ decodeTableWord 16 (sinkKey showing showing).toNat = some .sinkDone ∧
      decodeTableWord 16 (sinkKey hunting hunting).toNat = some .sinkIgn := by
  decide

/-! ## Witnesses: the frames -/

theorem witness_BuffersAreWrittenOnlyByTakeAndAccept :
    (∃ t, exec (.csumOk 0x4C) (checksumPending paramsA) = .next t) ∧
    (∃ t, exec .sinkDone showing = .next t) := ⟨⟨_, rfl⟩, ⟨_, rfl⟩⟩
theorem witness_BodyTakeWritesOneStageByte :
    (∃ t, exec (.bodyTake true false 0x20) (body paramsA 3 0) = .next t) ∧
    (∃ t, exec (.bodyTake true false 0x32) (body paramsA 8 0) = .next t) := ⟨⟨_, rfl⟩, ⟨_, rfl⟩⟩
theorem witness_OperationsFollowTheTransitionGraph : ∃ t, exec (.huntSync 0x55) candidate = .next t := ⟨_, rfl⟩
/-- Each of the five reporting operations. -/
theorem witness_ReportsComeFromTheirOperations :
    (∃ t, exec (.lenB1Bad 0) (lenPending paramsA 0x0D) = .next t ∧ t.errValid = true) ∧
    (∃ t, exec (.lenB1Drain 0) (lenPending paramsDR 0x05) = .next t ∧ t.errValid = true) ∧
    (∃ t, exec .tickRto { synced paramsA with byteTimer := 2 } = .next t ∧ t.errValid = true) ∧
    (∃ t, exec .tickPto { body paramsA 1 0 with frameTimer := 9 } = .next t ∧ t.errValid = true) ∧
    (∃ t, exec (.csumBad 0) (checksumPending paramsA) = .next t ∧ t.errValid = true) ∧
    (lenPending paramsA 0x0D).errValid = false ∧ (lenPending paramsDR 0x05).errValid = false ∧
    (synced paramsA).errValid = false ∧ (body paramsA 1 0).errValid = false ∧
    (checksumPending paramsA).errValid = false :=
  ⟨⟨_, rfl, rfl⟩, ⟨_, rfl, rfl⟩, ⟨_, rfl, rfl⟩, ⟨_, rfl, rfl⟩, ⟨_, rfl, rfl⟩, rfl, rfl, rfl, rfl, rfl⟩

/-! ## Witnesses: the step -/

/-- Each of the four clauses: a reset, a tick, a byte, a `sink_done`. -/
theorem witness_StepRunsTheSelectedOperation :
    let s := { hunting with stimulus := [{ rst := true }] }
    let u := { hunting with stimulus := [PortInputs.tickOnly] }
    let v := { hunting with stimulus := [PortInputs.offer 0xAA] }
    let w := { showing with stimulus := [PortInputs.sinkOnly] }
    (s.params.legal = true ∧ sampledInputs s = { rst := true } ∧ decodeTableWord 16 (resetKey s).toNat = some .reset) ∧
    (u.params.legal = true ∧ sampledInputs u = PortInputs.tickOnly ∧
      decodeTableWord 16 (tickKey u).toNat = some .tickIdle) ∧
    (v.params.legal = true ∧ sampledInputs v = PortInputs.offer 0xAA ∧ v.state ≠ .valid ∧
      decodeTableWord 24 (0xAA0000 + (byteKey v 0xAA).toNat) = some (.huntMiss 0xAA)) ∧
    (w.params.legal = true ∧ sampledInputs w = PortInputs.sinkOnly ∧
      decodeTableWord 16 (sinkKey w w).toNat = some .sinkDone) := by decide
/-- Tick, offered byte and `sink_done` together (TO9 with a `sink_done`), for the second clause. -/
theorem witness_StepComposesTickByteSink :
    let s := { body paramsA 0 0x0C with
      byteTimer := 2, stimulus := [{ tick := true, rxValid := true, rxData := 0x10, sinkDone := true }] }
    let s1 := clearReport (advance s)
    s.params.legal = true ∧ (sampledInputs s).rst = false ∧
    decodeTableWord 16 (tickKey s1).toNat = some .tickRto ∧
    (match exec .tickRto s1 with
      | .next s2 =>
        decodeTableWord 24 (0x100000 + (byteKey s2 0x10).toNat) = some (.huntMiss 0x10) ∧
        (match exec (.huntMiss 0x10) s2 with
          | .next s3 => decodeTableWord 16 (sinkKey s s3).toNat = some .sinkIgn ∧ stop? (exec .sinkIgn s3) = none
          | _ => False)
      | _ => False) := ⟨rfl, rfl, rfl, rfl, rfl, rfl⟩
theorem witness_StepComposesTickByteSink_reset :
    let s := { body paramsA 4 0x3F with stimulus := [{ rst := true }] }
    s.params.legal = true ∧ (sampledInputs s).rst = true := by decide
theorem witness_ResetDominatesTheInputs :
    let s := { candidate with stimulus := [{ rst := true, tick := true, rxValid := true, sinkDone := true }] }
    s.params.legal = true ∧ (sampledInputs s).rst = true := by decide
/-- A cycle with nothing; a byte offered in VALID; `sink_done` outside VALID. -/
theorem witness_IdleCycleOnlyClearsTheReport :
    let s := { candidate with stimulus := [{}] }
    let u := { showing with stimulus := [PortInputs.offer 0xAA] }
    let v := { candidate with stimulus := [PortInputs.sinkOnly] }
    (s.params.legal = true ∧ (sampledInputs s).rst = false ∧ (sampledInputs s).tick = false ∧
      (sampledInputs s).rxValid = false ∧ (sampledInputs s).sinkDone = false) ∧
    (u.params.legal = true ∧ (sampledInputs u).rst = false ∧ (sampledInputs u).tick = false ∧ u.state = .valid ∧
      (sampledInputs u).sinkDone = false) ∧
    (v.params.legal = true ∧ (sampledInputs v).rst = false ∧ (sampledInputs v).tick = false ∧
      (sampledInputs v).rxValid = false ∧ v.state ≠ .valid) := by decide
/-- In VALID: without and with `sink_done`, a step that ends VALID, cycles that do not, and an OutputSink that answers. -/
theorem witness_ValidWaitsForSinkDone :
    let s := { showing with stimulus := [{ tick := true, rxValid := true, rxData := 0xAA }] }
    let u := { showing with stimulus := [PortInputs.sinkOnly] }
    (s.params.legal = true ∧ (sampledInputs s).rst = false ∧ s.state = .valid ∧ (sampledInputs s).sinkDone = false) ∧
    (u.params.legal = true ∧ (sampledInputs u).rst = false ∧ u.state = .valid ∧ (sampledInputs u).sinkDone = true) ∧
    (∃ t, step u = .next t ∧ t.state ≠ .valid) ∧
    (∀ i ∈ List.replicate 3 (PortInputs.offer 0xAA), i.rst = false ∧ i.sinkDone = false) ∧
    Environment.SinkAnswers (fun n => if n < 2 then PortInputs.tickOnly else PortInputs.sinkOnly) showing :=
  ⟨by decide, by decide, ⟨_, rfl, by decide⟩, by decide, fun n _ => ⟨n + 2, Nat.le_add_right n 2, by simp; rfl⟩⟩
/-- A step that answers a next state: the hypothesis of StepKeepsTheParameters, LastGoodSegmentIsKept and ReportsArePulses,
here one that enters VALID, one that reports and one that does neither. -/
theorem witness_StepAnswersNext :
    (∃ t, step ((checksumPending paramsA).pushInputs (.offer 0x4C)) = .next t) ∧
    (∃ t, step ((lenPending paramsDR 0x05).pushInputs (.offer 0x00)) = .next t) ∧
    (∃ t, step (hunting.pushInputs (.offer 0x55)) = .next t) :=
  ⟨next_of_after (by decide), next_of_after (by decide), next_of_after (by decide)⟩
theorem witness_IllegalParametersAreRefused :
    Params.legal { paramsA with byteTimeout := 0 } = false ∧ paramsA.legal = true := by decide
theorem witness_OutputPortsShowTheState :
    1 < showing.params.countPixels ∧ Memory.read? 5 showing.seg = some 0x32 := by decide

/-! ## Witnesses: the invariants and the decoder -/

theorem witness_InvariantsHoldAtReset : paramsA.legal = true ∧ paramsZ.legal = true ∧ paramsNE.legal = true := by decide
/-- States in each of the seven control states meet the invariants, and are not reset states. -/
theorem witness_InvariantsHoldInEveryControlState :
    [candidate, { synced paramsA with byteTimer := 2 }, lenPending paramsA 0x0C,
      { body paramsA 1 0x1C with byteTimer := 2, frameTimer := 9 }, checksumPending paramsA, showing, draining 5].all
        (fun s => s.inv && s.covered) = true := by decide
/-- The hypotheses of StepKeepsTheInvariants and StepKeepsTheWindowStaged: a state that meets them and a step from it. -/
theorem witness_StepKeepsTheInvariants :
    ((checksumPending paramsA).pushInputs (.offer 0x4C)).inv = true ∧
    ((checksumPending paramsA).pushInputs (.offer 0x4C)).covered = true ∧
    ∃ t, step ((checksumPending paramsA).pushInputs (.offer 0x4C)) = .next t :=
  ⟨by decide, by decide, next_of_after (by decide)⟩
theorem witness_EngineNeverStops : State.reset.inv = true ∧ (draining 5).inv = true := by decide
theorem witness_SelectedOperationsFitTheParameters :
    let s := body paramsZ 11 0
    s.inv = true ∧ s.state ≠ .valid ∧
      decodeTableWord 24 (0x420000 + (byteKey s 0x42).toNat) = some (.bodyTake false true 0x42) ∧
      decodeTableWord 16 (tickKey s).toNat = some .tickCount := by decide
theorem witness_EachKeySelectsOneRow : keyImpossible 0x029 = false ∧ keyImpossible 0x3FF = false := by decide
theorem witness_ImpossibleKeysSelectNothing :
    [0x180, 0x050, 0x070, 0x033, 0x081].all keyImpossible = true := by decide
theorem witness_LengthFieldIsAssembledInItsByteOrder :
    (1206 < 65536 ∧ paramsA.lenBytes 1206 = [0xB6, 0x04]) ∧
    (65535 < 65536 ∧ Params.lenBytes { paramsA with lenBigEndian := true } 1206 = [0x04, 0xB6]) := by decide
/-- The boundaries of the window: 2 before, 3 and 8 inside, 9 after. -/
theorem witness_WindowTranslationCoversTheWindow :
    windowAt paramsA 2 = .skip ∧ windowAt paramsA 3 = .take ∧ windowAt paramsA 8 = .take ∧ windowAt paramsA 9 = .drop ∧
      stageAddress? paramsA 2 = none ∧ stageAddress? paramsA 3 = some 0 ∧ stageAddress? paramsA 8 = some 5 ∧
      stageAddress? paramsA 9 = none := by decide

/-! ## Witnesses: the runs -/

/-- The payload `PAY` of 95_test_vectors.md. -/
def pay : List Byte := [0x10, 0x11, 0x12, 0x20, 0x21, 0x22, 0x30, 0x31, 0x32, 0x40, 0x41, 0x42]

/-- Noise without the pair, then `MARKER2` (SH8), and then another byte. -/
theorem witness_HuntSyncsAtTheFirstMarkerPair :
    hunting.inv = true ∧ hunting.state = .hunting ∧ hunting.prevValid = false ∧
      ¬ hunting.params.mark <:+: [0x00, 0xFF, 0xAA, 0xAA] ∧
      hunting.params.mark <:+ [0x00, 0xFF, 0xAA, 0xAA] ++ [0x55] ∧
      ¬ hunting.params.mark <:+ [0x00, 0xFF, 0xAA, 0xAA] ++ [0x54] := by decide
theorem witness_HuntingSurvivesAnySilence :
    candidate.inv = true ∧ candidate.state = .hunting ∧ candidate.errValid = false := by decide
/-- Both clauses, at their boundary: 2 ticks are too few, 3 expire. -/
theorem witness_ReadTimeoutComesAtTheLastTick :
    (synced paramsA).inv = true ∧ timed (synced paramsA) = true ∧ frameRun (synced paramsA) = false ∧
      (synced paramsA).byteTimer.toNat + 2 < (synced paramsA).params.byteTimeout ∧
      (synced paramsA).byteTimer.toNat + 3 = (synced paramsA).params.byteTimeout := by decide
theorem witness_TruncatedFrameIsAbandoned :
    let s := { body paramsA 6 0 with byteTimer := 1, stage := [(0, 0x20), (1, 0x21), (2, 0x22)] }
    s.inv = true ∧ timed s = true ∧ s.params.byteTimeout ≤ s.byteTimer.toNat + 2 := by decide
/-- The bound of configuration A is `2 * 3 + max (3 + 10) (12 * 3) = 42` ticks. -/
theorem witness_ReceiveCycleIsBoundedInTicks :
    (synced paramsA).inv = true ∧ (synced paramsA).state = .synced ∧
      (∀ i ∈ List.replicate 42 { PortInputs.tickOnly with rxValid := true }, i.rst = false) ∧
      2 * (synced paramsA).params.byteTimeout +
        max ((synced paramsA).params.byteTimeout + (synced paramsA).params.frameTimeout)
          ((synced paramsA).params.drainCap * (synced paramsA).params.byteTimeout) ≤
        tickCount (List.replicate 42 { PortInputs.tickOnly with rxValid := true }) ∧
      Environment.TicksKeepComing (fun n => { PortInputs.tickOnly with rxValid := n % 2 == 0 }) ∧
      ∀ n : Nat, ({ PortInputs.tickOnly with rxValid := n % 2 == 0 } : PortInputs).rst = false :=
  ⟨by decide, by decide, by decide, by decide, fun n => ⟨n, Nat.le_refl n, rfl⟩, fun _ => rfl⟩
/-- A sender that offers nothing and one that goes on offering a byte that is not consumed hold their bytes (R232). -/
theorem witness_BytesAreHeld :
    Environment.BytesAreHeld (fun _ => PortInputs.tickOnly) hunting ∧
      Environment.BytesAreHeld (fun _ => PortInputs.offer 0xAA) showing :=
  ⟨fun _ _ _ h _ => Bool.noConfusion h, fun _ _ _ _ _ => And.intro rfl rfl⟩
/-- Gaps of up to 2 ticks, 9 in all after payload byte 0; any gap before `MARKER2`. -/
theorem witness_HealthySenderIsAccepted :
    let gaps := [0, 7, 2, 2, 2, 2, 2, 2, 1, 1, 1, 0, 0, 0, 0, 0, 0]
    hunting.inv = true ∧ hunting.state = .hunting ∧ hunting.prevValid = false ∧
      pay.length = hunting.params.expLen ∧ gaps.length = (hunting.params.frame pay).length ∧
      (∀ g ∈ gaps.drop 2, g < hunting.params.byteTimeout) ∧ (gaps.drop 5).sum < hunting.params.frameTimeout := by decide
/-- S3: payload byte 7 changed from `31` to `35`. -/
theorem witness_CorruptedPayloadByteIsRejected :
    hunting.inv = true ∧ hunting.state = .hunting ∧ hunting.prevValid = false ∧ hunting.params.csumEn = true ∧
      (pay.take 7 ++ (0x31 : Byte) :: pay.drop 8).length = hunting.params.expLen ∧ (0x04 : Byte) ≠ 0 := by decide
/-- An empty descriptor may lie inside another receiver's segment; a gap or an overlap is no tiling. -/
theorem test_tilesFrom_empty_gap_overlap :
    let p (o n : Nat) : Params := { paramsA with offsetPixels := o, countPixels := n }
    tilesFrom 4 0 [p 0 4, p 2 0] = true ∧ tilesFrom 4 0 [p 0 1, p 2 2] = false ∧ tilesFrom 4 0 [p 0 3, p 2 2] = false := by
  decide
/-- Two receivers of a frame of four pixels, and one that shows no pixel. -/
theorem witness_SegmentsOfATilingMakeThePayload :
    let engines := [State.powerOn { paramsA with offsetPixels := 0, countPixels := 1 },
      State.powerOn { paramsA with offsetPixels := 1, countPixels := 3 },
      State.powerOn { paramsA with offsetPixels := 2, countPixels := 0 }]
    tilesFrom 4 0 (engines.map (·.params)) = true ∧ pay.length = 3 * 4 ∧
      ∀ s ∈ engines, s.inv = true ∧ s.state = .hunting ∧ s.prevValid = false ∧
        s.params.frame pay = hunting.params.frame pay := by decide
/-- One engine just reset, and one that has shown another segment and stopped in a frame. -/
theorem witness_AcceptedSegmentDependsOnThePayloadOnly :
    let s := { hunting with seg := showing.seg, stage := [(0, 0x77), (5, 0x78)] }
    hunting.inv = true ∧ hunting.state = .hunting ∧ hunting.prevValid = false ∧ s.inv = true ∧ s.state = .hunting ∧
      s.prevValid = false ∧ s.params = hunting.params ∧ pay.length = hunting.params.expLen := by decide
theorem witness_StaleStagingBytesAreUnobservable :
    hunting.inv = true ∧ State.inv { hunting with stage := [(0, 0x77), (5, 0x78)] } = true ∧
      hunting.state ≠ .bodyPending ∧ hunting.state ≠ .checksumPending := by decide
/-- 12 has different bytes; 771 = 0x0303 has equal ones (TOTAL_PIXELS 257). -/
theorem witness_OtherByteOrderIsAHeaderMismatch :
    let s := State.powerOn { paramsA with totalPixels := 257 }
    (hunting.inv = true ∧ hunting.state = .hunting ∧ hunting.prevValid = false ∧
      hunting.params.expLen / 256 ≠ hunting.params.expLen % 256) ∧
    (s.inv = true ∧ s.state = .hunting ∧ s.prevValid = false ∧ s.params.expLen / 256 = s.params.expLen % 256) := by
  decide

end Sys2Proof.Tests
end

/-! ## Proofs: the scope of the model (00_scope.md)

Parameters, stimulus and clock over a step (R5, R8), legality (R6), progress (R14), and the run over given inputs as the
machine's own run. -/

namespace Sys2Proof.Machine

/-! ### Parameters, stimulus and clock -/

/-- An event of a clock cycle that may be absent changes no parameter, stimulus or clock. -/
theorem event_keeps_own {c : Prop} [Decidable c] {i : Instr} {s t : State}
    (h : if c then exec i s = .next t else t = s) :
    t.params = s.params ∧ t.stimulus = s.stimulus ∧ t.clock = s.clock := by
  split at h
  · exact exec_keeps_own h
  · subst h; exact ⟨rfl, rfl, rfl⟩

theorem cycle_keeps_own {inp : PortInputs} {s t : State} (h : cycle inp s = .next t) :
    t.params = s.params ∧ t.stimulus = s.stimulus ∧ t.clock = s.clock := by
  obtain ⟨-, rfl⟩ | ⟨-, s1, s2, htick, hbyte, hsink⟩ := cycle_next.mp h
  · simp
  · obtain ⟨p1, q1, c1⟩ := event_keeps_own htick
    obtain ⟨p2, q2, c2⟩ := event_keeps_own hbyte
    obtain ⟨p3, q3, c3⟩ := event_keeps_own hsink
    exact ⟨p3.trans (p2.trans p1), q3.trans (q2.trans q1), c3.trans (c2.trans c1)⟩

/-- Settles O31: the edge uses up the stimulus entry and counts the clock, and the cycle after it leaves all three alone. -/
theorem stepKeepsTheParameters : Obligations.StepKeepsTheParameters := by
  intro s t h
  simpa using cycle_keeps_own (step_next.mp h).2

/-! ### Legality -/

theorem step_of_illegal {s : State} (h : ¬ s.params.legal = true) : step s = .refused .illegalParameters :=
  if_neg h

/-- Settles O34: `step` and `State.build` both test `Params.legal`, which is R6 clause by clause. -/
theorem illegalParametersAreRefused : Obligations.IllegalParametersAreRefused := by
  intro s p
  exact ⟨fun h => step_of_illegal (mt Params.legal_iff.mp h), if_congr Params.legal_iff rfl rfl⟩

/-! ### Progress -/

/-- In a timed state what R40 says of the control state does not speak of the timers. -/
theorem controlInv_timers {s : State} (h : timed s = true) (bt ft : Half) :
    controlInv { s with byteTimer := bt, frameTimer := ft } = controlInv s := by
  unfold controlInv
  cases hs : s.state with
  | hunting | valid => simp [timed, hs] at h
  | _ => rfl

/-- Counting a tick keeps the timers below their limits, for the tick that would reach one expires instead (R173). -/
theorem inv_tickOp {s t : State} (h : s.inv = true) (ht : exec (tickOp s) s = .next t) : t.inv = true := by
  obtain ⟨-, rfl⟩ | ⟨-, -, rfl⟩ | ⟨-, -, -, rfl⟩ | ⟨htimed, hfto, hbto, rfl⟩ := tickOp_cases ht
  · exact h
  · exact inv_raise _ h
  · exact inv_raise _ h
  · obtain ⟨hl, hc, htm, hf, hst, hsg⟩ := inv_iff.mp h
    obtain ⟨-, -, -, -, hbmax, -, hfmax, -⟩ := Params.legal_iff.mp hl
    obtain ⟨-, hflt, -, hfz⟩ := timerInv_iff.mp htm
    have hb : s.byteTimer.toNat + 1 < s.params.byteTimeout := by simpa [bto, htimed] using hbto
    refine inv_iff.mpr ⟨hl, (controlInv_timers htimed _ _).trans hc,
      timerInv_iff.mpr ⟨?_, ?_, .inl htimed, ?_⟩, hf, hst, hsg⟩
    · show (s.byteTimer + 1).toNat < s.params.byteTimeout
      rw [half_succ (by omega)]; exact hb
    · show (if frameRun s then s.frameTimer + 1 else s.frameTimer).toNat < s.params.frameTimeout
      split
      next hrun =>
        have hft : s.frameTimer.toNat + 1 < s.params.frameTimeout := by simpa [fto, hrun] using hfto
        rw [half_succ (by omega)]; exact hft
      next => exact hflt
    · show frameRun s = true ∨ (if frameRun s then s.frameTimer + 1 else s.frameTimer) = 0
      cases hrun : frameRun s
      · exact .inr (hfz.resolve_left (by simp [hrun]))
      · exact .inl rfl

/-- Under the invariants the operation a byte selects meets its own clause: a frame has bytes left in BODY_PENDING, and a
drain in DRAINING. -/
theorem byteOp_runs {s : State} (h : s.inv = true) (hv : s.state ≠ .valid) (b : Byte) :
    ∃ t, exec (byteOp s b) s = .next t := by
  obtain ⟨-, hc, -⟩ := inv_iff.mp h
  unfold byteOp
  cases hs : s.state with
  | valid => exact absurd hs hv
  | hunting =>
    cases hh : hit s b
    · exact ⟨_, exec_huntMiss_next.mpr ⟨hs, hh, rfl⟩⟩
    · exact ⟨_, exec_huntSync_next.mpr ⟨hs, hh, rfl⟩⟩
  | synced => exact ⟨_, exec_lenB0_next.mpr ⟨hs, rfl⟩⟩
  | lenPending =>
    cases hok : lenOk s b
    · cases hd : doDrain s b
      · exact ⟨_, exec_lenB1Bad_next.mpr ⟨hs, hok, hd, rfl⟩⟩
      · exact ⟨_, exec_lenB1Drain_next.mpr ⟨hs, hok, hd, rfl⟩⟩
    · exact ⟨_, exec_lenB1Ok_next.mpr ⟨hs, hok, rfl⟩⟩
  | bodyPending =>
    have hpos : s.pos.toNat < s.params.expLen := by
      simp only [controlInv, hs, Bool.and_eq_true, decide_eq_true_eq] at hc; exact hc.2
    have hsel : bodySelected (win s) s.params.csumEn (lastBody s) s = true :=
      bodySelected_iff.mpr ⟨hs, hpos, rfl, rfl, rfl⟩
    cases hw : win s <;> rw [hw] at hsel
    · exact ⟨_, exec_bodySkip_next.mpr ⟨hsel, rfl⟩⟩
    · exact ⟨_, exec_bodyTake_next.mpr ⟨hsel, rfl⟩⟩
    · exact ⟨_, exec_bodyDrop_next.mpr ⟨hsel, rfl⟩⟩
  | checksumPending =>
    cases hck : ckOk s b
    · exact ⟨_, exec_csumBad_next.mpr ⟨hs, hck, rfl⟩⟩
    · exact ⟨_, exec_csumOk_next.mpr ⟨hs, hck, rfl⟩⟩
  | draining =>
    have hcnt : 1 ≤ s.drainCnt.toNat := by
      simp only [controlInv, hs, Bool.and_eq_true, decide_eq_true_eq] at hc; exact hc.1.2
    cases hl : lastDrain s
    · have hne : s.drainCnt.toNat ≠ 1 := fun h1 => by simp [lastDrain_iff.mpr h1] at hl
      exact ⟨_, exec_drainByte_next.mpr ⟨hs, by omega, rfl⟩⟩
    · exact ⟨_, exec_drainLast_next.mpr ⟨hs, hl, rfl⟩⟩

/-- The TICK event of a cycle, present or not, has a next state, which meets the invariants and is in VALID as before. -/
theorem tickEvent_runs {s : State} (h : s.inv = true) (c : Bool) :
    ∃ s1, (if c then exec (tickOp s) s = .next s1 else s1 = s) ∧ s1.inv = true ∧
      (s1.state = .valid ↔ s.state = .valid) := by
  cases c
  · exact ⟨s, rfl, h, Iff.rfl⟩
  · obtain ⟨s1, h1⟩ := tick_runs s
    exact ⟨s1, h1, inv_tickOp h h1, tick_valid_iff h1⟩

/-- A byte is consumed only in a cycle that began outside VALID and SINK_DONE runs only in one that began in VALID, so at
most one of them follows the tick. -/
theorem cycle_runs {s : State} (h : s.inv = true) (inp : PortInputs) : ∃ t, cycle inp s = .next t := by
  cases hr : inp.rst
  · obtain ⟨s1, h1, hinv, hval⟩ := tickEvent_runs h inp.tick
    by_cases hv : s.state = .valid
    · have hbyte : ¬ (inp.rxValid = true ∧ s.state ≠ .valid) := fun hb => hb.2 hv
      cases hsink : inp.sinkDone
      · exact ⟨s1, cycle_next.mpr (.inr ⟨hr, s1, s1, h1, by rw [if_neg hbyte], by simp [hsink]⟩)⟩
      · refine ⟨enterHunting s1, cycle_next.mpr (.inr ⟨hr, s1, s1, h1, by rw [if_neg hbyte], ?_⟩)⟩
        rw [if_pos ⟨hsink, hv⟩]
        exact exec_sinkDone_next.mpr ⟨hval.mpr hv, rfl⟩
    · have hsink : ¬ (inp.sinkDone = true ∧ s.state = .valid) := fun hs => hv hs.2
      cases hrx : inp.rxValid
      · exact ⟨s1, cycle_next.mpr (.inr ⟨hr, s1, s1, h1, by simp [hrx], by rw [if_neg hsink]⟩)⟩
      · obtain ⟨s2, h2⟩ := byteOp_runs hinv (mt hval.mp hv) inp.rxData
        exact ⟨s2, cycle_next.mpr (.inr ⟨hr, s1, s2, h1, by rwa [if_pos ⟨hrx, hv⟩], by rw [if_neg hsink]⟩)⟩
  · exact ⟨_, cycle_next.mpr (.inl ⟨hr, rfl⟩)⟩

/-- Settles O39: the parameters are legal by the invariants, which the edge keeps, and the cycle after it goes on. -/
theorem engineNeverStops : Obligations.EngineNeverStops := by
  intro s h
  obtain ⟨t, ht⟩ := cycle_runs (inv_edge h) (sampledInputs s)
  exact ⟨t, step_next.mpr ⟨(inv_iff.mp h).1, ht⟩⟩

/-! ### The run over given inputs

No operation reads the stimulus, so replacing it commutes with every event and with the clock cycle. -/

/-- `s` with the stimulus `q` in place of its own (log 3). -/
def State.withStimulus (q : List PortInputs) (s : State) : State := { s with stimulus := q }

/-- A result with the stimulus of its next state, where there is one, replaced. -/
def Result.withStimulus (q : List PortInputs) (o : Result) : Result := thenDo o fun t => .next (t.withStimulus q)

theorem whenSelected_withStimulus {q : List PortInputs} {c c' : Bool} {t t' : State} (hc : c' = c)
    (ht : t' = t.withStimulus q) : whenSelected c' t' = Result.withStimulus q (whenSelected c t) := by
  subst hc ht
  cases c' <;> rfl

theorem thenDo_withStimulus {q : List PortInputs} {f g : State → Result}
    (h : ∀ u, f (u.withStimulus q) = Result.withStimulus q (g u)) (o : Result) :
    thenDo (Result.withStimulus q o) f = Result.withStimulus q (thenDo o g) := by
  cases o with
  | next u => exact h u
  | fault r => rfl
  | refused r => rfl

theorem bodyCommon_withStimulus (q : List PortInputs) (csumEn last : Bool) (b : Byte) (s : State) :
    bodyCommon csumEn last b (s.withStimulus q) = (bodyCommon csumEn last b s).withStimulus q := by
  cases last <;> cases csumEn <;> rfl

theorem exec_withStimulus (q : List PortInputs) (i : Instr) (s : State) :
    exec i (s.withStimulus q) = Result.withStimulus q (exec i s) := by
  cases i with
  | reset | sinkIgn => rfl
  | bodySkip c l b => exact whenSelected_withStimulus rfl (bodyCommon_withStimulus q c l b s)
  | bodyTake c l b =>
    exact whenSelected_withStimulus rfl (bodyCommon_withStimulus q c l b (stageWrite (stageAddress s) b s))
  | bodyDrop c l b => exact whenSelected_withStimulus rfl (bodyCommon_withStimulus q c l b s)
  | _ => exact whenSelected_withStimulus rfl rfl

theorem dispatch_withStimulus (q : List PortInputs) (k : BitVec 10) (b : Byte) (s : State) :
    dispatch k b (s.withStimulus q) = Result.withStimulus q (dispatch k b s) := by
  unfold dispatch
  cases decodeKey k b with
  | ok i => exact exec_withStimulus q i s
  | error e => rfl

theorem tickEvent_withStimulus (q : List PortInputs) (inp : PortInputs) (s : State) :
    tickEvent inp (s.withStimulus q) = Result.withStimulus q (tickEvent inp s) := by
  unfold tickEvent
  split
  · exact dispatch_withStimulus q _ _ s
  · rfl

theorem byteEvent_withStimulus (q : List PortInputs) (start : State) (inp : PortInputs) (s : State) :
    byteEvent (start.withStimulus q) inp (s.withStimulus q) = Result.withStimulus q (byteEvent start inp s) := by
  change byteEvent start inp (s.withStimulus q) = _
  unfold byteEvent
  split
  · exact dispatch_withStimulus q _ _ s
  · rfl

theorem sinkEvent_withStimulus (q : List PortInputs) (start : State) (inp : PortInputs) (s : State) :
    sinkEvent (start.withStimulus q) inp (s.withStimulus q) = Result.withStimulus q (sinkEvent start inp s) := by
  unfold sinkEvent
  split
  · exact dispatch_withStimulus q _ _ s
  · rfl

theorem cycle_withStimulus (q : List PortInputs) (inp : PortInputs) (s : State) :
    cycle inp (s.withStimulus q) = Result.withStimulus q (cycle inp s) := by
  unfold cycle
  split
  · exact dispatch_withStimulus q _ _ s
  · rw [tickEvent_withStimulus, thenDo_withStimulus (byteEvent_withStimulus q s inp),
      thenDo_withStimulus (sinkEvent_withStimulus q s inp)]

/-- What stands in the stimulus behind the coming inputs passes through a step unread. -/
theorem step_pushInputs_withStimulus (q : List PortInputs) (inp : PortInputs) (s : State) :
    step ((s.withStimulus q).pushInputs inp) = Result.withStimulus q (step (s.pushInputs inp)) := by
  by_cases hl : s.params.legal = true
  · rw [step_pushInputs (s := s.withStimulus q) hl, step_pushInputs hl]
    exact cycle_withStimulus q inp (atEdge s)
  · rw [step_of_illegal (s := (s.withStimulus q).pushInputs inp) hl, step_of_illegal (s := s.pushInputs inp) hl]
    rfl

/-- The machine's own run from a state with `ins` placed before its stimulus, by induction on `ins`: the first step leaves
the stimulus behind `ins` in place, with the other inputs before it. -/
theorem core_run_withStimulus (ins : List PortInputs) (s : State) :
    Sys2Proof.core.run ins.length (s.withStimulus (ins ++ s.stimulus)) = runInputs ins s := by
  induction ins generalizing s with
  | nil => rfl
  | cons inp ins ih =>
    have hstep : step (s.withStimulus (inp :: ins ++ s.stimulus)) =
        Result.withStimulus (ins ++ s.stimulus) (step (s.pushInputs inp)) :=
      step_pushInputs_withStimulus (ins ++ s.stimulus) inp s
    rw [List.length_cons, core_run_succ, hstep, runInputs]
    cases h : step (s.pushInputs inp) with
    | next t =>
      have hq : t.stimulus = s.stimulus := (stepKeepsTheParameters _ t h).2.1
      rw [← hq]; exact ih t
    | fault r => rfl
    | refused r => rfl

/-- Settles O49, by induction on the inputs. -/
theorem runOverInputsIsTheMachineRunning : Obligations.RunOverInputsIsTheMachineRunning :=
  core_run_withStimulus

end Sys2Proof.Machine

/-! ## Proofs: the state (10_state.md)

The output ports (R35 to R37), the transition graph (R190), the invariants of R40 at reset and over a step, and the
output registers (R32). -/

namespace Sys2Proof.Machine

/-! ### The output ports -/

theorem rxReady_iff {s : State} : rxReady s = true ↔ s.state ≠ .valid := by simp [rxReady]

theorem frameValid_iff {s : State} : frameValid s = true ↔ s.state = .valid := by simp [frameValid]

/-- The seven control states have seven codes (R21). -/
theorem Control.code_inj {a b : Control} : a.code = b.code ↔ a = b := by
  cases a <;> cases b <;> decide

theorem Control.code_ne_seven (a : Control) : a.code ≠ 0b111 := by
  cases a <;> decide

theorem stateO_eq_code_iff {s : State} (c : Control) : stateO s = c.code ↔ s.state = c := Control.code_inj

/-- Three bytes packed from the top, taken apart again. -/
theorem extract_packed_bytes (r g b : Byte) :
    (r ++ g ++ b).extractLsb' 16 8 = r ∧ (r ++ g ++ b).extractLsb' 8 8 = g ∧ (r ++ g ++ b).extractLsb' 0 8 = b :=
  ⟨(BitVec.extractLsb'_append_eq_of_le (by decide)).trans BitVec.extractLsb'_append_eq_left,
    (BitVec.extractLsb'_append_eq_of_le (by decide)).trans BitVec.extractLsb'_append_eq_right,
    BitVec.extractLsb'_append_eq_right⟩

theorem segRdData_of_lt {s : State} {a : Nat} (h : a < s.params.countPixels) :
    segRdData s a = segByte s (3 * a) ++ segByte s (3 * a + 1) ++ segByte s (3 * a + 2) := if_pos h

theorem segByte_of_read {s : State} {j : Nat} {b : Byte} (h : Memory.read? j s.seg = some b) : segByte s j = b := by
  simp [segByte, h]

/-- Settles O35: each port is a field of `outputs`, the codes of R21 are distinct, and packing is undone byte by byte. -/
theorem outputPortsShowTheState : Obligations.OutputPortsShowTheState := by
  intro s a
  refine ⟨rxReady_iff, frameValid_iff, rfl, rfl, rfl, rfl, stateO_eq_code_iff .hunting, stateO_eq_code_iff .synced,
    stateO_eq_code_iff .lenPending, stateO_eq_code_iff .bodyPending, stateO_eq_code_iff .checksumPending,
    stateO_eq_code_iff .valid, stateO_eq_code_iff .draining, Control.code_ne_seven s.state, rfl, rfl, fun h => ?_,
    fun _ _ => segByte_of_read⟩
  rw [segRdData_of_lt h]
  exact extract_packed_bytes _ _ _

/-! ### The invariants at reset -/

theorem inv_powerOn {p : Params} (h : p.legal = true) : (State.powerOn p).inv = true := by
  obtain ⟨-, -, -, hbyte, -, hframe, -⟩ := Params.legal_iff.mp h
  exact inv_iff.mpr ⟨h, rfl, timerInv_iff.mpr ⟨hbyte, hframe, .inr rfl, .inr rfl⟩, rfl, rfl, rfl⟩

/-- Settles O37: every register is 0 and the limits of legal timers are not. -/
theorem invariantsHoldAtReset : Obligations.InvariantsHoldAtReset :=
  ⟨fun _ h => ⟨inv_powerOn h, rfl⟩, inv_powerOn (p := Config.referenceParams) (by decide), rfl⟩

/-! ### The transition graph -/

theorem allowedEdge_refl (a : Control) : allowedEdge a a = true := by simp [allowedEdge]

theorem allowedEdge_hunting (a : Control) : allowedEdge a .hunting = true := by simp [allowedEdge]

/-- `body_common` ends in BODY_PENDING, CHECKSUM_PENDING or VALID (R135). -/
theorem allowedEdge_bodyCommon {s u : State} (h : s.state = .bodyPending) (csumEn last : Bool) (b : Byte) :
    allowedEdge s.state (bodyCommon csumEn last b u).state = true := by
  rw [h, bodyCommon_state]
  cases last <;> cases csumEn <;> rfl

theorem exec_allowedEdge {i : Instr} {s t : State} (h : exec i s = .next t) : allowedEdge s.state t.state = true := by
  cases i with
  | reset => cases exec_reset_next.mp h; exact allowedEdge_hunting _
  | huntMiss b => obtain ⟨-, -, rfl⟩ := exec_huntMiss_next.mp h; exact allowedEdge_refl _
  | huntSync b => obtain ⟨hs, -, rfl⟩ := exec_huntSync_next.mp h; rw [hs]; rfl
  | lenB0 b => obtain ⟨hs, rfl⟩ := exec_lenB0_next.mp h; rw [hs]; rfl
  | lenB1Ok b => obtain ⟨hs, -, rfl⟩ := exec_lenB1Ok_next.mp h; rw [hs]; rfl
  | lenB1Bad b => obtain ⟨-, -, -, rfl⟩ := exec_lenB1Bad_next.mp h; exact allowedEdge_hunting _
  | lenB1Drain b => obtain ⟨hs, -, -, rfl⟩ := exec_lenB1Drain_next.mp h; rw [hs]; rfl
  | drainByte b => obtain ⟨-, -, rfl⟩ := exec_drainByte_next.mp h; exact allowedEdge_refl _
  | drainLast b => obtain ⟨-, -, rfl⟩ := exec_drainLast_next.mp h; exact allowedEdge_hunting _
  | bodySkip c l b =>
    obtain ⟨hsel, rfl⟩ := exec_bodySkip_next.mp h
    exact allowedEdge_bodyCommon (bodySelected_iff.mp hsel).1 c l b
  | bodyTake c l b =>
    obtain ⟨hsel, rfl⟩ := exec_bodyTake_next.mp h
    exact allowedEdge_bodyCommon (bodySelected_iff.mp hsel).1 c l b
  | bodyDrop c l b =>
    obtain ⟨hsel, rfl⟩ := exec_bodyDrop_next.mp h
    exact allowedEdge_bodyCommon (bodySelected_iff.mp hsel).1 c l b
  | csumOk b => obtain ⟨hs, -, rfl⟩ := exec_csumOk_next.mp h; rw [hs]; rfl
  | csumBad b => obtain ⟨-, -, rfl⟩ := exec_csumBad_next.mp h; exact allowedEdge_hunting _
  | tickIdle => obtain ⟨-, rfl⟩ := exec_tickIdle_next.mp h; exact allowedEdge_refl _
  | tickCount => obtain ⟨-, -, -, rfl⟩ := exec_tickCount_next.mp h; exact allowedEdge_refl _
  | tickRto => obtain ⟨-, -, -, rfl⟩ := exec_tickRto_next.mp h; exact allowedEdge_hunting _
  | tickPto => obtain ⟨-, -, rfl⟩ := exec_tickPto_next.mp h; exact allowedEdge_hunting _
  | sinkDone => obtain ⟨-, rfl⟩ := exec_sinkDone_next.mp h; exact allowedEdge_hunting _
  | sinkIgn => cases exec_sinkIgn_next.mp h; exact allowedEdge_refl _

/-- Settles O24, by cases on the operation. -/
theorem operationsFollowTheTransitionGraph : Obligations.OperationsFollowTheTransitionGraph :=
  fun _ _ _ => exec_allowedEdge

/-! ### The invariants, control state by control state -/

theorem cycleClear_iff {s : State} : cycleClear s = true ↔
    s.lenB0 = 0 ∧ s.len = 0 ∧ s.pos = 0 ∧ s.xorAcc = 0 ∧ s.byteTimer = 0 ∧ s.frameTimer = 0 ∧ s.drainCnt = 0 := by
  simp [cycleClear, and_assoc]

section
variable {s : State}

theorem controlInv_hunting (h : s.state = .hunting) : controlInv s = true ↔ cycleClear s = true := by
  simp [controlInv, h]

theorem controlInv_synced (h : s.state = .synced) :
    controlInv s = true ↔ s.xorAcc = 0 ∧ s.pos = 0 ∧ s.len = 0 ∧ s.lenB0 = 0 := by
  simp [controlInv, h, and_assoc]

theorem controlInv_lenPending (h : s.state = .lenPending) : controlInv s = true ↔ s.xorAcc = s.lenB0 ∧ s.pos = 0 := by
  simp [controlInv, h]

theorem controlInv_bodyPending (h : s.state = .bodyPending) :
    controlInv s = true ↔ s.len.toNat = s.params.expLen ∧ s.pos.toNat < s.params.expLen := by
  simp [controlInv, h]

theorem controlInv_checksumPending (h : s.state = .checksumPending) :
    controlInv s = true ↔ s.params.csumEn = true ∧ s.len.toNat = s.params.expLen ∧ s.pos.toNat = s.params.expLen := by
  simp [controlInv, h, and_assoc]

theorem controlInv_draining (h : s.state = .draining) :
    controlInv s = true ↔ s.params.drainEn = true ∧ s.len.toNat ≠ s.params.expLen ∧ 1 ≤ s.drainCnt.toNat ∧
      s.drainCnt.toNat ≤ min s.len.toNat s.params.drainCap := by
  simp [controlInv, h, and_assoc]

end

theorem expLen_le {p : Params} (h : p.legal = true) : p.expLen ≤ 65535 := by
  obtain ⟨-, -, htotal, -⟩ := Params.legal_iff.mp h
  exact htotal

/-! ### Each operation keeps the invariants

A BYTE operation that stays in a timed state restarts the byte timer and leaves the buffers as they are. -/

/-- Restarting the byte timer keeps the timers below their limits, if the frame timer is restarted too or keeps its value
and goes on running where it ran (R27, R28). -/
theorem timerInv_restart {s t : State} (h : s.inv = true) (hp : t.params = s.params) (hb : t.byteTimer = 0)
    (hf : t.frameTimer = 0 ∨ (t.frameTimer = s.frameTimer ∧ (frameRun s = true → frameRun t = true))) :
    timerInv t = true := by
  obtain ⟨hl, -, htm, -⟩ := inv_iff.mp h
  obtain ⟨-, -, -, hbyte, -, hframe, -⟩ := Params.legal_iff.mp hl
  obtain ⟨-, hlt, -, hz⟩ := timerInv_iff.mp htm
  rw [timerInv_iff, hp, hb]
  obtain hf | ⟨hf, hrun⟩ := hf
  · rw [hf]; exact ⟨hbyte, hframe, .inr rfl, .inr rfl⟩
  · rw [hf]; exact ⟨hbyte, hlt, .inr rfl, hz.imp_left hrun⟩

/-- What the flags say outside HUNTING and DRAINING (R40 (k), (l), R29). -/
theorem inv_flags {s : State} (h : s.inv = true) (hh : s.state ≠ .hunting) (hd : s.state ≠ .draining) :
    s.prevValid = false ∧ (s.errValid = true ∨ s.errCode = 0) ∧ s.drainCnt = 0 := by
  obtain ⟨-, -, -, hf, -⟩ := inv_iff.mp h
  obtain ⟨hprev, herr, hdrain⟩ := flagInv_iff.mp hf
  exact ⟨hprev.resolve_left hh, herr, hdrain.resolve_left hd⟩

theorem inv_huntMiss {s : State} (h : s.inv = true) (hs : s.state = .hunting) (b : Byte) :
    State.inv { s with prev := b, prevValid := true } = true := by
  obtain ⟨hl, hc, ht, hf, hst, hsg⟩ := inv_iff.mp h
  obtain ⟨-, herr, hdrain⟩ := flagInv_iff.mp hf
  refine inv_iff.mpr ⟨hl, ?_, ht, flagInv_iff.mpr ⟨.inl hs, herr, hdrain⟩, hst, hsg⟩
  exact (controlInv_hunting (s := { s with prev := b, prevValid := true }) hs).mpr ((controlInv_hunting hs).mp hc)

theorem inv_huntSync {s : State} (h : s.inv = true) (hs : s.state = .hunting) :
    State.inv { s with state := .synced, prevValid := false, prev := 0x00, xorAcc := 0x00, byteTimer := 0 } = true := by
  obtain ⟨hl, hc, -, hf, hst, hsg⟩ := inv_iff.mp h
  obtain ⟨-, herr, -⟩ := flagInv_iff.mp hf
  obtain ⟨hb0, hlen, hpos, -, -, hft, hdc⟩ := cycleClear_iff.mp ((controlInv_hunting hs).mp hc)
  exact inv_iff.mpr ⟨hl, (controlInv_synced rfl).mpr ⟨rfl, hpos, hlen, hb0⟩,
    timerInv_restart h rfl rfl (.inl hft), flagInv_iff.mpr ⟨.inr rfl, herr, .inr hdc⟩, hst, hsg⟩

/-- The frame timer does not run before the body, and is 0 there. -/
theorem inv_frameTimer {s : State} (h : s.inv = true) (hr : frameRun s = false) : s.frameTimer = 0 := by
  obtain ⟨-, -, htm, -⟩ := inv_iff.mp h
  obtain ⟨-, -, -, hz⟩ := timerInv_iff.mp htm
  exact hz.resolve_left (by simp [hr])

theorem inv_lenB0 {s : State} (h : s.inv = true) (hs : s.state = .synced) (b : Byte) :
    State.inv { s with lenB0 := b, xorAcc := s.xorAcc ^^^ b, byteTimer := 0, state := .lenPending } = true := by
  obtain ⟨hl, hc, -, -, hst, hsg⟩ := inv_iff.mp h
  obtain ⟨hprev, herr, hdc⟩ := inv_flags h (by simp [hs]) (by simp [hs])
  obtain ⟨hxor, hpos, -, -⟩ := (controlInv_synced hs).mp hc
  have hft : s.frameTimer = 0 := inv_frameTimer h (by simp [frameRun, hs])
  exact inv_iff.mpr ⟨hl, (controlInv_lenPending rfl).mpr ⟨by simp [hxor], hpos⟩,
    timerInv_restart h rfl rfl (.inl hft), flagInv_iff.mpr ⟨.inr hprev, herr, .inr hdc⟩, hst, hsg⟩

theorem inv_lenB1Ok {s : State} (h : s.inv = true) (hs : s.state = .lenPending) {b : Byte} (hok : lenOk s b = true) :
    State.inv { s with
      len := dlen s b, xorAcc := s.xorAcc ^^^ b, byteTimer := 0, pos := 0, state := .bodyPending } = true := by
  obtain ⟨hl, -, -, -, hst, hsg⟩ := inv_iff.mp h
  obtain ⟨-, htotal, -⟩ := Params.legal_iff.mp hl
  obtain ⟨hprev, herr, hdc⟩ := inv_flags h (by simp [hs]) (by simp [hs])
  have hft : s.frameTimer = 0 := inv_frameTimer h (by simp [frameRun, hs])
  have hexp : 0 < s.params.expLen := by unfold Params.expLen; omega
  exact inv_iff.mpr ⟨hl, (controlInv_bodyPending rfl).mpr ⟨lenOk_iff.mp hok, hexp⟩,
    timerInv_restart h rfl rfl (.inl hft), flagInv_iff.mpr ⟨.inr hprev, herr, .inr hdc⟩, hst, hsg⟩

/-- The drain count fits its register (R127). -/
theorem drainN_toNat (s : State) (b : Byte) : (BitVec.ofNat 16 (drainN s b)).toNat = drainN s b := by
  have hlen : drainN s b ≤ (dlen s b).toNat := Nat.min_le_left _ _
  have := (dlen s b).isLt
  exact (BitVec.toNat_ofNat _ _).trans (Nat.mod_eq_of_lt (by omega))

theorem inv_lenB1Drain {s : State} (h : s.inv = true) (hs : s.state = .lenPending) {b : Byte}
    (hok : lenOk s b = false) (hd : doDrain s b = true) :
    State.inv { report .headerMismatch s with
      len := dlen s b, drainCnt := BitVec.ofNat 16 (drainN s b), xorAcc := s.xorAcc ^^^ b, byteTimer := 0,
      state := .draining } = true := by
  obtain ⟨hl, -, -, -, hst, hsg⟩ := inv_iff.mp h
  obtain ⟨hprev, -, -⟩ := inv_flags h (by simp [hs]) (by simp [hs])
  have hft : s.frameTimer = 0 := inv_frameTimer h (by simp [frameRun, hs])
  have hlen : (dlen s b).toNat ≠ s.params.expLen := by simpa [lenOk] using hok
  obtain ⟨hen, hpos⟩ : s.params.drainEn = true ∧ 0 < drainN s b := by simpa [doDrain] using hd
  refine inv_iff.mpr ⟨hl, (controlInv_draining rfl).mpr ⟨hen, hlen, ?_, ?_⟩,
    timerInv_restart h rfl rfl (.inl hft), flagInv_iff.mpr ⟨.inr hprev, .inl rfl, .inl rfl⟩, hst, hsg⟩
  · rw [drainN_toNat]; exact hpos
  · rw [drainN_toNat]; exact le_rfl

theorem inv_drainByte {s : State} (h : s.inv = true) (hs : s.state = .draining) (hcnt : 1 < s.drainCnt.toNat) :
    State.inv { s with drainCnt := s.drainCnt - 1, byteTimer := 0 } = true := by
  obtain ⟨hl, hc, -, hf, hst, hsg⟩ := inv_iff.mp h
  obtain ⟨hprev, herr, -⟩ := flagInv_iff.mp hf
  obtain ⟨hen, hlen, -, hle⟩ := (controlInv_draining hs).mp hc
  have hsub : (s.drainCnt - 1).toNat = s.drainCnt.toNat - 1 := by bv_omega
  have hleft : 1 ≤ (s.drainCnt - 1).toNat ∧ (s.drainCnt - 1).toNat ≤ min s.len.toNat s.params.drainCap := by omega
  have hctrl : controlInv { s with drainCnt := s.drainCnt - 1, byteTimer := 0 } = true :=
    (controlInv_draining (s := { s with drainCnt := s.drainCnt - 1, byteTimer := 0 }) hs).mpr ⟨hen, hlen, hleft⟩
  exact inv_iff.mpr ⟨hl, hctrl, timerInv_restart h rfl rfl (.inr ⟨rfl, id⟩),
    flagInv_iff.mpr ⟨hprev, herr, .inl hs⟩, hst, hsg⟩

/-- `accept()` clears every register that `body_common` writes (R153). -/
theorem accept_bodyCount (b : Byte) (s : State) : accept (bodyCount b s) = accept s := rfl

/-- `body_common` keeps the invariants in all three ways it completes (R131, R135). -/
theorem inv_bodyCommon {s : State} (h : s.inv = true) (hs : s.state = .bodyPending) (b : Byte) :
    (bodyCommon s.params.csumEn (lastBody s) b s).inv = true := by
  obtain ⟨hl, hc, -, -, hst, hsg⟩ := inv_iff.mp h
  obtain ⟨hprev, herr, hdc⟩ := inv_flags h (by simp [hs]) (by simp [hs])
  obtain ⟨hlen, hpos⟩ := (controlInv_bodyPending hs).mp hc
  have hsucc : (s.pos + 1).toNat = s.pos.toNat + 1 := half_succ (by have := expLen_le hl; omega)
  have hflag : ∀ c, flagInv { bodyCount b s with state := c } = true :=
    fun _ => flagInv_iff.mpr ⟨.inr hprev, herr, .inr hdc⟩
  have htimer : ∀ c, (c = .bodyPending ∨ c = .checksumPending) →
      timerInv { bodyCount b s with state := c } = true := by
    intro c hc
    refine timerInv_restart h rfl rfl ?_
    by_cases hfirst : s.pos = 0
    · exact .inl (if_pos hfirst)
    · refine .inr ⟨if_neg hfirst, fun _ => frameRun_iff.mpr (hc.imp_left fun hb => ⟨hb, ?_⟩)⟩
      show 1 ≤ (s.pos + 1).toNat
      omega
  unfold bodyCommon
  obtain ⟨hlast, he⟩ | ⟨hlast, hen, he⟩ | ⟨-, -, he⟩ := bodyComplete_cases s.params.csumEn (lastBody s) (bodyCount b s)
  · have hne : s.pos.toNat + 1 ≠ s.params.expLen := by simpa [lastBody] using hlast
    rw [he]
    refine inv_iff.mpr ⟨hl, (controlInv_bodyPending rfl).mpr ⟨hlen, ?_⟩, htimer _ (.inl rfl),
      hflag _, hst, hsg⟩
    show (s.pos + 1).toNat < s.params.expLen
    omega
  · rw [he]
    exact inv_iff.mpr ⟨hl, (controlInv_checksumPending rfl).mpr ⟨hen, hlen, hsucc.trans (lastBody_iff.mp hlast)⟩,
      htimer _ (.inr rfl), hflag _, hst, hsg⟩
  · rw [he, accept_bodyCount]
    exact inv_accept h

/-- A byte taken has its address inside the buffer (R69). -/
theorem stageAddress_lt {s : State} (hw : win s = .take) : stageAddress s < s.params.segBytes := by
  obtain ⟨hlo, hhi⟩ := windowAt_take.mp hw
  rw [winHi_eq] at hhi
  unfold stageAddress
  omega

theorem inv_bodySelected {w : Window} {csumEn last : Bool} {s : State} (h : s.inv = true)
    (hsel : bodySelected w csumEn last s = true) (b : Byte) : (bodyCommon csumEn last b s).inv = true := by
  obtain ⟨hs, -, -, rfl, rfl⟩ := bodySelected_iff.mp hsel
  exact inv_bodyCommon h hs b

/-- Every operation keeps the invariants. -/
theorem inv_exec {i : Instr} {s t : State} (hinv : s.inv = true) (h : exec i s = .next t) : t.inv = true := by
  cases i with
  | reset => cases exec_reset_next.mp h; exact inv_clearReport (inv_enterHunting hinv)
  | huntMiss b => obtain ⟨hs, -, rfl⟩ := exec_huntMiss_next.mp h; exact inv_huntMiss hinv hs b
  | huntSync b => obtain ⟨hs, -, rfl⟩ := exec_huntSync_next.mp h; exact inv_huntSync hinv hs
  | lenB0 b => obtain ⟨hs, rfl⟩ := exec_lenB0_next.mp h; exact inv_lenB0 hinv hs b
  | lenB1Ok b => obtain ⟨hs, hok, rfl⟩ := exec_lenB1Ok_next.mp h; exact inv_lenB1Ok hinv hs hok
  | lenB1Bad b => obtain ⟨-, -, -, rfl⟩ := exec_lenB1Bad_next.mp h; exact inv_raise _ hinv
  | lenB1Drain b => obtain ⟨hs, hok, hd, rfl⟩ := exec_lenB1Drain_next.mp h; exact inv_lenB1Drain hinv hs hok hd
  | drainByte b => obtain ⟨hs, hcnt, rfl⟩ := exec_drainByte_next.mp h; exact inv_drainByte hinv hs hcnt
  | drainLast b => obtain ⟨-, -, rfl⟩ := exec_drainLast_next.mp h; exact inv_enterHunting hinv
  | bodySkip c l b => obtain ⟨hsel, rfl⟩ := exec_bodySkip_next.mp h; exact inv_bodySelected hinv hsel b
  | bodyTake c l b =>
    obtain ⟨hsel, rfl⟩ := exec_bodyTake_next.mp h
    obtain ⟨-, -, hw, -⟩ := bodySelected_iff.mp hsel
    exact inv_bodySelected (inv_stageWrite hinv (stageAddress_lt hw) b) (w := .take) hsel b
  | bodyDrop c l b => obtain ⟨hsel, rfl⟩ := exec_bodyDrop_next.mp h; exact inv_bodySelected hinv hsel b
  | csumOk b => obtain ⟨-, -, rfl⟩ := exec_csumOk_next.mp h; exact inv_accept hinv
  | csumBad b => obtain ⟨-, -, rfl⟩ := exec_csumBad_next.mp h; exact inv_raise _ hinv
  | tickIdle => obtain ⟨-, rfl⟩ := exec_tickIdle_next.mp h; exact hinv
  | tickCount =>
    obtain ⟨htimed, hfto, hbto, -⟩ := exec_tickCount_next.mp h
    have hop : tickOp s = .tickCount := by simp [tickOp, htimed, hfto, hbto]
    exact inv_tickOp hinv (hop ▸ h)
  | tickRto => obtain ⟨-, -, -, rfl⟩ := exec_tickRto_next.mp h; exact inv_raise _ hinv
  | tickPto => obtain ⟨-, -, rfl⟩ := exec_tickPto_next.mp h; exact inv_raise _ hinv
  | sinkDone => obtain ⟨-, rfl⟩ := exec_sinkDone_next.mp h; exact inv_enterHunting hinv
  | sinkIgn => cases exec_sinkIgn_next.mp h; exact hinv

/-- An event of a clock cycle that may be absent keeps the invariants. -/
theorem inv_event {c : Prop} [Decidable c] {i : Instr} {s t : State} (hinv : s.inv = true)
    (h : if c then exec i s = .next t else t = s) : t.inv = true := by
  split at h
  · exact inv_exec hinv h
  · exact h ▸ hinv

theorem inv_cycle {inp : PortInputs} {s t : State} (hinv : s.inv = true) (h : cycle inp s = .next t) :
    t.inv = true := by
  obtain ⟨-, rfl⟩ | ⟨-, s1, s2, htick, hbyte, hsink⟩ := cycle_next.mp h
  · exact inv_clearReport (inv_enterHunting hinv)
  · exact inv_event (inv_event (inv_event hinv htick) hbyte) hsink

/-- Settles O38: the edge keeps the invariants, and so does each event of the cycle after it. -/
theorem stepKeepsTheInvariants : Obligations.StepKeepsTheInvariants :=
  fun _ _ hinv h => inv_cycle (inv_edge hinv) (step_next.mp h).2

/-! ### The output registers

A report is made by one of five operations. In a clock cycle that starts with the registers cleared, the tick either raises
a failure, after which the engine hunts and no byte reports, or it is quiet, and the byte selects what it would have selected
without the tick. -/

/-- The operations that report a failure (R195). -/
def reporting : Instr → Bool
  | .lenB1Bad _ | .lenB1Drain _ | .csumBad _ | .tickRto | .tickPto => true
  | _ => false

theorem reporting_tickOp_iff {s : State} : reporting (tickOp s) = true ↔
    decodeKey (tickKey s) 0 = .ok .tickRto ∨ decodeKey (tickKey s) 0 = .ok .tickPto := by
  rw [decode_tickKey]
  unfold tickOp
  cases timed s <;> cases fto s <;> cases bto s <;> simp [reporting]

theorem reporting_byteOp_iff {s : State} (h : s.state ≠ .valid) {b : Byte} : reporting (byteOp s b) = true ↔
    decodeKey (byteKey s b) b = .ok (.lenB1Bad b) ∨ decodeKey (byteKey s b) b = .ok (.lenB1Drain b) ∨
      decodeKey (byteKey s b) b = .ok (.csumBad b) := by
  rw [decode_byteKey h]
  unfold byteOp
  cases s.state with
  | hunting => cases hit s b <;> simp [reporting]
  | lenPending => cases lenOk s b <;> cases doDrain s b <;> simp [reporting]
  | bodyPending => cases win s <;> simp [reporting]
  | checksumPending => cases ckOk s b <;> simp [reporting]
  | draining => cases lastDrain s <;> simp [reporting]
  | synced | valid => simp [reporting]

/-- An operation that reports shows it in `err_valid`, and leaves the engine hunting, or draining with code 0 (R124, R195). -/
theorem exec_reporting {i : Instr} {s t : State} (h : exec i s = .next t) (hr : reporting i = true) :
    t.errValid = true ∧ (t.state = .hunting ∨ (t.state = .draining ∧ t.errCode = 0)) := by
  cases i with
  | lenB1Bad b => obtain ⟨-, -, -, rfl⟩ := exec_lenB1Bad_next.mp h; simp
  | lenB1Drain b => obtain ⟨-, -, -, rfl⟩ := exec_lenB1Drain_next.mp h; simp [FailureKind.code]
  | csumBad b => obtain ⟨-, -, rfl⟩ := exec_csumBad_next.mp h; simp
  | tickRto => obtain ⟨-, -, -, rfl⟩ := exec_tickRto_next.mp h; simp
  | tickPto => obtain ⟨-, -, rfl⟩ := exec_tickPto_next.mp h; simp
  | _ => simp [reporting] at hr

/-- An operation that reports nothing leaves cleared output registers cleared. -/
theorem exec_quiet {i : Instr} {s t : State} (h : exec i s = .next t) (hr : reporting i = false)
    (hclear : s.errValid = false ∧ s.errCode = 0) : t.errValid = false ∧ t.errCode = 0 := by
  cases i with
  | reset => cases exec_reset_next.mp h; exact ⟨rfl, rfl⟩
  | lenB1Bad b | lenB1Drain b | csumBad b | tickRto | tickPto => simp [reporting] at hr
  | huntMiss b => obtain ⟨-, -, rfl⟩ := exec_huntMiss_next.mp h; exact hclear
  | huntSync b => obtain ⟨-, -, rfl⟩ := exec_huntSync_next.mp h; exact hclear
  | lenB0 b => obtain ⟨-, rfl⟩ := exec_lenB0_next.mp h; exact hclear
  | lenB1Ok b => obtain ⟨-, -, rfl⟩ := exec_lenB1Ok_next.mp h; exact hclear
  | drainByte b => obtain ⟨-, -, rfl⟩ := exec_drainByte_next.mp h; exact hclear
  | drainLast b => obtain ⟨-, -, rfl⟩ := exec_drainLast_next.mp h; exact hclear
  | bodySkip c l b => obtain ⟨-, rfl⟩ := exec_bodySkip_next.mp h; simpa using hclear
  | bodyTake c l b => obtain ⟨-, rfl⟩ := exec_bodyTake_next.mp h; simpa using hclear
  | bodyDrop c l b => obtain ⟨-, rfl⟩ := exec_bodyDrop_next.mp h; simpa using hclear
  | csumOk b => obtain ⟨-, -, rfl⟩ := exec_csumOk_next.mp h; exact hclear
  | tickIdle => obtain ⟨-, rfl⟩ := exec_tickIdle_next.mp h; exact hclear
  | tickCount => obtain ⟨-, -, -, rfl⟩ := exec_tickCount_next.mp h; exact hclear
  | sinkDone => obtain ⟨-, rfl⟩ := exec_sinkDone_next.mp h; exact hclear
  | sinkIgn => cases exec_sinkIgn_next.mp h; exact hclear

/-- Right after a failure was raised there is no marker candidate, so a byte is a miss. -/
theorem byteOp_raiseFailure (e : FailureKind) (s : State) (b : Byte) : byteOp (raiseFailure e s) b = .huntMiss b := by
  simp [byteOp, hit]

/-- The TICK event of a clock cycle, present or not: it raises a failure, or it reports nothing and changes nothing that
the choice of the BYTE operation reads. -/
theorem tickEvent_report {c : Bool} {s s1 : State} (h : if c then exec (tickOp s) s = .next s1 else s1 = s) :
    ((c = true ∧ reporting (tickOp s) = true) ∧ ∃ e, s1 = raiseFailure e s) ∨
    (¬ (c = true ∧ reporting (tickOp s) = true) ∧ s1.errValid = s.errValid ∧ s1.errCode = s.errCode ∧
      ∀ b, byteOp s1 b = byteOp s b) := by
  cases c
  · obtain rfl : s1 = s := h
    exact .inr ⟨nofun, rfl, rfl, fun _ => rfl⟩
  · obtain ⟨ht, rfl⟩ | ⟨ht, hf, rfl⟩ | ⟨ht, hf, hb, rfl⟩ | ⟨ht, hf, hb, rfl⟩ := tickOp_cases h
    · exact .inr ⟨by simp [tickOp, ht, reporting], rfl, rfl, fun _ => rfl⟩
    · exact .inl ⟨⟨rfl, by simp [tickOp, ht, hf, reporting]⟩, _, rfl⟩
    · exact .inl ⟨⟨rfl, by simp [tickOp, ht, hf, hb, reporting]⟩, _, rfl⟩
    · exact .inr ⟨by simp [tickOp, ht, hf, hb, reporting], rfl, rfl, fun _ => rfl⟩

/-- The output registers show a report exactly where `r` holds: a report only while hunting, or while draining with code 0,
and else code 0 (R32, R178). -/
def ReportShown (r : Prop) (t : State) : Prop :=
  (t.errValid = true ↔ r) ∧ (t.errValid = true → t.state = .hunting ∨ (t.state = .draining ∧ t.errCode = 0)) ∧
    (t.errValid = false → t.errCode = 0)

/-- The SINK event reports nothing, and if it runs the engine hunts after it. -/
theorem ReportShown.sink {r c : Prop} [Decidable c] {s t : State} (hr : ReportShown r s)
    (h : if c then exec .sinkDone s = .next t else t = s) : ReportShown r t := by
  split at h
  · obtain ⟨hvalid, -, hcode⟩ := hr
    obtain ⟨-, rfl⟩ := exec_sinkDone_next.mp h
    exact ⟨hvalid, fun _ => .inl rfl, hcode⟩
  · exact h ▸ hr

/-- The BYTE event after a tick that raised a failure: the report stands and the engine goes on hunting. -/
theorem reportShown_byte_of_raise {r c : Prop} [Decidable c] (hr : r) {e : FailureKind} {b : Byte} {s t : State}
    (h : if c then exec (byteOp (raiseFailure e s) b) (raiseFailure e s) = .next t else t = raiseFailure e s) :
    ReportShown r t := by
  rw [byteOp_raiseFailure] at h
  split at h
  · obtain ⟨-, -, rfl⟩ := exec_huntMiss_next.mp h
    exact ⟨iff_of_true rfl hr, fun _ => .inl rfl, nofun⟩
  · subst h
    exact ⟨iff_of_true rfl hr, fun _ => .inl rfl, nofun⟩

/-- The BYTE event after a quiet tick: the registers are still cleared, so they show what the byte reports. -/
theorem reportShown_byte_of_quiet {c : Prop} [Decidable c] {b : Byte} {s t : State}
    (hclear : s.errValid = false ∧ s.errCode = 0) (h : if c then exec (byteOp s b) s = .next t else t = s) :
    ReportShown (c ∧ reporting (byteOp s b) = true) t := by
  split at h
  next hc =>
    cases hr : reporting (byteOp s b)
    · obtain ⟨hvalid, hcode⟩ := exec_quiet h hr hclear
      simp [ReportShown, hvalid, hcode]
    · obtain ⟨hvalid, hstate⟩ := exec_reporting h hr
      simpa [ReportShown, hc, hvalid] using hstate
  next hc =>
    subst h
    simp [ReportShown, hc, hclear]

theorem cycle_reportShown {inp : PortInputs} {s t : State} (hclear : s.errValid = false ∧ s.errCode = 0)
    (h : cycle inp s = .next t) :
    ReportShown (inp.rst = false ∧ ((inp.tick = true ∧ reporting (tickOp s) = true) ∨
      (inp.rxValid = true ∧ s.state ≠ .valid ∧ reporting (byteOp s inp.rxData) = true))) t := by
  obtain ⟨hrst, rfl⟩ | ⟨hrst, s1, s2, htick, hbyte, hsink⟩ := cycle_next.mp h
  · simp [ReportShown, hrst]
  · refine ReportShown.sink ?_ hsink
    obtain ⟨hrep, e, rfl⟩ | ⟨hquiet, hvalid, hcode, hop⟩ := tickEvent_report htick
    · exact reportShown_byte_of_raise ⟨hrst, .inl hrep⟩ hbyte
    · have hshown := reportShown_byte_of_quiet ⟨hvalid.trans hclear.1, hcode.trans hclear.2⟩ hbyte
      simpa only [hrst, true_and, hquiet, false_or, hop, and_assoc] using hshown

/-- Settles O33: the edge clears the output registers, and in the cycle after it the tick and the byte report exactly where
their keys select a reporting operation. -/
theorem reportsArePulses : Obligations.ReportsArePulses := by
  intro s t h
  obtain ⟨hvalid, hstate, hcode⟩ := cycle_reportShown (s := edge s) ⟨rfl, rfl⟩ (step_next.mp h).2
  refine ⟨hvalid.trans ?_, hstate, hcode⟩
  exact and_congr_right fun _ => or_congr (and_congr_right fun _ => reporting_tickOp_iff (s := s))
    (and_congr_right fun _ => and_congr_right fun hv => reporting_byteOp_iff (s := s) hv)

end Sys2Proof.Machine

/-! ## Proofs: the buffers (20_memory.md)

The window translation (R68, R69), which operation writes which buffer (R30, R31, R76), the coverage of the staging buffer
(R75, R222), and that its stale bytes cannot be observed (R75). -/

namespace Sys2Proof.Machine

/-! ### The window translation -/

theorem stageAddress?_eq_some_iff {p : Params} {n a : Nat} :
    stageAddress? p n = some a ↔ windowAt p n = .take ∧ a = n - p.winLo := by
  simp [stageAddress?, windowAt_take, eq_comm (a := a)]

/-- Settles O47: `WIN_HI` is `SEG_BYTES` past `WIN_LO`, so the window positions and the addresses below `SEG_BYTES` differ
by the shift `WIN_LO`. -/
theorem windowTranslationCoversTheWindow : Obligations.WindowTranslationCoversTheWindow := by
  intro p n
  have hhi := winHi_eq p
  refine ⟨windowAt_skip, windowAt_take, windowAt_drop, fun _ => stageAddress?_eq_some_iff, fun a ha => ?_,
    fun a ha => ⟨p.winLo + a, stageAddress?_eq_some_iff.mpr ⟨windowAt_take.mpr ?_, ?_⟩⟩⟩
  · obtain ⟨hw, rfl⟩ := stageAddress?_eq_some_iff.mp ha
    have := windowAt_take.mp hw
    omega
  · omega
  · omega

/-! ### The operations that do not work on the buffers

But for the three BODY operations and CSUM_OK no operation reads or writes a buffer, enters VALID or adds to the window bytes
of a frame. -/

/-- The payload of a frame is arriving or has arrived: the states in which `stage` holds bytes of this frame (R75). -/
def inPayload (s : State) : Bool := s.state == .bodyPending || s.state == .checksumPending

theorem inPayload_iff {s : State} : inPayload s = true ↔ s.state = .bodyPending ∨ s.state = .checksumPending := by
  simp [inPayload]

/-- The operations that may read or write a buffer: the BODY operations and CSUM_OK. -/
def buffering : Instr → Bool
  | .bodySkip .. | .bodyTake .. | .bodyDrop .. | .csumOk _ => true
  | _ => false

/-- From `s` to `t` no buffer changes, VALID is not entered, and no further window byte counts as staged. -/
structure KeepsBuffers (s t : State) : Prop where
  stage : t.stage = s.stage
  seg : t.seg = s.seg
  params : t.params = s.params
  valid : t.state = .valid → s.state = .valid
  staged : inPayload t = true → stagedCount t = 0 ∨ (inPayload s = true ∧ stagedCount t = stagedCount s)

theorem KeepsBuffers.refl (s : State) : KeepsBuffers s s := ⟨rfl, rfl, rfl, id, fun h => .inr ⟨h, rfl⟩⟩

theorem exec_keepsBuffers {i : Instr} {s t : State} (hi : buffering i = false) (h : exec i s = .next t) :
    KeepsBuffers s t := by
  cases i with
  | bodySkip | bodyTake | bodyDrop | csumOk => cases hi
  | reset => cases exec_reset_next.mp h; exact ⟨rfl, rfl, rfl, nofun, nofun⟩
  | sinkIgn => cases exec_sinkIgn_next.mp h; exact .refl s
  | lenB1Ok b =>
    obtain ⟨-, -, rfl⟩ := exec_lenB1Ok_next.mp h
    exact ⟨rfl, rfl, rfl, nofun, fun _ => .inl (by simp [stagedCount])⟩
  | huntMiss | drainByte | tickIdle | tickCount =>
    obtain ⟨-, rfl⟩ := whenSelected_next.mp h
    exact ⟨rfl, rfl, rfl, id, fun hp => .inr ⟨hp, rfl⟩⟩
  | _ =>
    obtain ⟨-, rfl⟩ := whenSelected_next.mp h
    exact ⟨rfl, rfl, rfl, nofun, nofun⟩

/-! ### Which operation writes which buffer -/

theorem bodyCommon_seg_cases (csumEn last : Bool) (b : Byte) (s : State) :
    (bodyCommon csumEn last b s).seg = s.seg ∨
      ((bodyCommon csumEn last b s).state = .valid ∧
        (bodyCommon csumEn last b s).seg = (bodyCommon csumEn last b s).stage) := by
  unfold bodyCommon
  obtain ⟨-, he⟩ | ⟨-, -, he⟩ | ⟨-, -, he⟩ := bodyComplete_cases csumEn last (bodyCount b s) <;> rw [he]
  · exact .inl rfl
  · exact .inl rfl
  · exact .inr ⟨rfl, rfl⟩

/-- A BODY operation changes `seg` only by accepting, from whatever staged state `u` its completion runs on. -/
theorem bodySelected_seg_cases {w : Window} {csumEn last : Bool} {s u : State}
    (hsel : bodySelected w csumEn last s = true) (hu : u.seg = s.seg) (b : Byte) :
    (bodyCommon csumEn last b u).seg = s.seg ∨ (s.state ≠ .valid ∧ (bodyCommon csumEn last b u).state = .valid ∧
      (bodyCommon csumEn last b u).seg = (bodyCommon csumEn last b u).stage) := by
  obtain ⟨hs, -⟩ := bodySelected_iff.mp hsel
  rw [← hu]
  exact (bodyCommon_seg_cases csumEn last b u).imp_right fun h => ⟨by simp [hs], h⟩

/-- Settles O22, by cases on the operation: BODY_TAKE alone stages, and `accept()` alone copies. -/
theorem buffersAreWrittenOnlyByTakeAndAccept : Obligations.BuffersAreWrittenOnlyByTakeAndAccept := by
  intro i s t h
  cases hi : buffering i with
  | false =>
    have hkeep := exec_keepsBuffers hi h
    exact ⟨fun _ => hkeep.stage, .inl hkeep.seg⟩
  | true =>
    cases i with
    | bodySkip c l b =>
      obtain ⟨hsel, rfl⟩ := exec_bodySkip_next.mp h
      exact ⟨fun _ => bodyCommon_stage .., bodySelected_seg_cases hsel rfl b⟩
    | bodyTake c l b =>
      obtain ⟨hsel, rfl⟩ := exec_bodyTake_next.mp h
      exact ⟨fun hne => absurd rfl (hne c l b),
        bodySelected_seg_cases (u := stageWrite (stageAddress s) b s) hsel rfl b⟩
    | bodyDrop c l b =>
      obtain ⟨hsel, rfl⟩ := exec_bodyDrop_next.mp h
      exact ⟨fun _ => bodyCommon_stage .., bodySelected_seg_cases hsel rfl b⟩
    | csumOk b =>
      obtain ⟨hs, -, rfl⟩ := exec_csumOk_next.mp h
      exact ⟨fun _ => rfl, .inr ⟨by simp [hs], rfl, rfl⟩⟩
    | _ => cases hi

/-- Settles O23: the completion leaves `stage` as the one write left it. -/
theorem bodyTakeWritesOneStageByte : Obligations.BodyTakeWritesOneStageByte := by
  intro c l b s t h
  obtain ⟨hsel, rfl⟩ := exec_bodyTake_next.mp h
  obtain ⟨-, -, hw, -⟩ := bodySelected_iff.mp hsel
  rw [bodyCommon_stage, stageWrite_stage]
  exact ⟨rfl, stageAddress_lt hw, Memory.read?_write_self .., fun a ha => Memory.read?_write_other ha ..⟩

/-! ### How many window bytes a payload byte stages -/

theorem winHi_le_expLen {p : Params} (h : p.legal = true) : p.winHi ≤ p.expLen := by
  obtain ⟨hfits, -⟩ := Params.legal_iff.mp h
  unfold Params.winHi Params.expLen
  omega

/-- After the last payload position the whole window has been met. -/
theorem stagedCount_of_end {s : State} (hl : s.params.legal = true) (h : s.pos.toNat = s.params.expLen) :
    stagedCount s = s.params.segBytes := by
  have hend := winHi_le_expLen hl
  have hhi := winHi_eq s.params
  unfold stagedCount
  omega

/-- While payload bytes are missing, `pos` counts up without wrapping. -/
theorem bodyCount_pos_toNat {s : State} (hl : s.params.legal = true) (hpos : s.pos.toNat < s.params.expLen) (b : Byte) :
    (bodyCount b s).pos.toNat = s.pos.toNat + 1 :=
  half_succ (by have := expLen_le hl; omega)

theorem stagedCount_bodyCount_of_ne_take {s : State} (hl : s.params.legal = true)
    (hpos : s.pos.toNat < s.params.expLen) (hw : win s ≠ .take) (b : Byte) :
    stagedCount (bodyCount b s) = stagedCount s := by
  have hsucc := bodyCount_pos_toNat hl hpos b
  have hout : ¬ (s.params.winLo ≤ s.pos.toNat ∧ s.pos.toNat < s.params.winHi) := mt windowAt_take.mpr hw
  have hhi := winLo_le_winHi s.params
  unfold stagedCount
  rw [hsucc, bodyCount_params]
  omega

/-- The bytes staged so far lie below the address that BODY_TAKE writes. -/
theorem stagedCount_of_take {s : State} (hw : win s = .take) : stagedCount s = stageAddress s := by
  obtain ⟨-, hhi⟩ := windowAt_take.mp hw
  unfold stagedCount stageAddress
  omega

theorem stagedCount_bodyCount_of_take {s : State} (hl : s.params.legal = true)
    (hpos : s.pos.toNat < s.params.expLen) (hw : win s = .take) (b : Byte) :
    stagedCount (bodyCount b s) = stageAddress s + 1 := by
  have hsucc := bodyCount_pos_toNat hl hpos b
  obtain ⟨hlo, hhi⟩ := windowAt_take.mp hw
  unfold stagedCount stageAddress
  rw [hsucc, bodyCount_params]
  omega

/-- The completion's field `last` says that the counted position is the end of the payload. -/
theorem bodyCount_pos_end {w : Window} {csumEn last : Bool} {s : State} (hl : s.params.legal = true)
    (hsel : bodySelected w csumEn last s = true) (b : Byte) (hlast : last = true) :
    (bodyCount b s).pos.toNat = (bodyCount b s).params.expLen := by
  obtain ⟨-, hpos, -, -, rfl⟩ := bodySelected_iff.mp hsel
  exact (bodyCount_pos_toNat hl hpos b).trans (lastBody_iff.mp hlast)

/-! ### The coverage of the staging buffer -/

theorem covered_iff {s : State} : s.covered = true ↔
    (inPayload s = true → written (stagedCount s) s.stage = true) ∧
      (s.state = .valid → written s.params.segBytes s.seg = true) := by
  unfold State.covered inPayload
  cases s.state <;> simp

theorem KeepsBuffers.covered {s t : State} (h : KeepsBuffers s t) (hcov : s.covered = true) : t.covered = true := by
  obtain ⟨hstage, hseg⟩ := covered_iff.mp hcov
  refine covered_iff.mpr ⟨fun ht => ?_, fun ht => ?_⟩
  · obtain hzero | ⟨hs, hcount⟩ := h.staged ht
    · rw [hzero]; rfl
    · rw [hcount, h.stage]; exact hstage hs
  · rw [h.params, h.seg]; exact hseg (h.valid ht)

/-- Writing the first address that was not written before. -/
theorem written_write {n : Nat} {m : Memory} (h : written n m = true) (b : Byte) :
    written (n + 1) (Memory.write n b m) = true := by
  refine written_iff.mpr fun a ha => ?_
  rw [Memory.read?_write]
  split
  next => rfl
  next hne => exact written_iff.mp h a (by omega)

/-- At the end of the payload `accept()` copies a buffer that is written everywhere. -/
theorem covered_accept {s : State} (hl : s.params.legal = true) (hp : inPayload s = true)
    (hend : s.pos.toNat = s.params.expLen) (hcov : s.covered = true) : (accept s).covered = true := by
  have hstage := (covered_iff.mp hcov).1 hp
  rw [stagedCount_of_end hl hend] at hstage
  exact hstage

theorem covered_bodyComplete {csumEn last : Bool} {s : State} (hl : s.params.legal = true) (hs : s.state = .bodyPending)
    (hend : last = true → s.pos.toNat = s.params.expLen) (hcov : s.covered = true) :
    (bodyComplete csumEn last s).covered = true := by
  have hp : inPayload s = true := inPayload_iff.mpr (.inl hs)
  have hstage : written (stagedCount s) s.stage = true := (covered_iff.mp hcov).1 hp
  obtain ⟨-, he⟩ | ⟨-, -, he⟩ | ⟨hlast, -, he⟩ := bodyComplete_cases csumEn last s <;> rw [he]
  · exact hstage
  · exact hstage
  · exact covered_accept hl hp (hend hlast) hcov

/-- A payload byte outside the window adds no window byte. -/
theorem covered_bodyCommon_of_ne_take {w : Window} {csumEn last : Bool} {s : State} (hl : s.params.legal = true)
    (hsel : bodySelected w csumEn last s = true) (hw : w ≠ .take) (hcov : s.covered = true) (b : Byte) :
    (bodyCommon csumEn last b s).covered = true := by
  obtain ⟨hs, hpos, rfl, -⟩ := bodySelected_iff.mp hsel
  refine covered_bodyComplete hl hs (bodyCount_pos_end hl hsel b) (covered_iff.mpr ⟨fun hp => ?_, by simp [hs]⟩)
  rw [stagedCount_bodyCount_of_ne_take hl hpos hw]
  exact (covered_iff.mp hcov).1 hp

/-- A payload byte inside the window is written at the first address not staged yet. -/
theorem covered_bodyCommon_of_take {csumEn last : Bool} {s : State} (hl : s.params.legal = true)
    (hsel : bodySelected .take csumEn last s = true) (hcov : s.covered = true) (b : Byte) :
    (bodyCommon csumEn last b (stageWrite (stageAddress s) b s)).covered = true := by
  obtain ⟨hs, hpos, hw, -⟩ := bodySelected_iff.mp hsel
  have hend := bodyCount_pos_end (s := stageWrite (stageAddress s) b s) hl hsel b
  have hcount : stagedCount (bodyCount b (stageWrite (stageAddress s) b s)) = stageAddress s + 1 :=
    stagedCount_bodyCount_of_take hl hpos hw b
  have hstage := (covered_iff.mp hcov).1 (inPayload_iff.mpr (.inl hs))
  rw [stagedCount_of_take hw] at hstage
  refine covered_bodyComplete hl hs hend (covered_iff.mpr ⟨fun _ => ?_, by simp [hs]⟩)
  rw [hcount]
  exact written_write hstage b

theorem covered_exec {i : Instr} {s t : State} (hinv : s.inv = true) (hcov : s.covered = true)
    (h : exec i s = .next t) : t.covered = true := by
  obtain ⟨hl, hctrl, -⟩ := inv_iff.mp hinv
  cases hi : buffering i with
  | false => exact (exec_keepsBuffers hi h).covered hcov
  | true =>
    cases i with
    | bodySkip c l b =>
      obtain ⟨hsel, rfl⟩ := exec_bodySkip_next.mp h
      exact covered_bodyCommon_of_ne_take hl hsel nofun hcov b
    | bodyTake c l b =>
      obtain ⟨hsel, rfl⟩ := exec_bodyTake_next.mp h
      exact covered_bodyCommon_of_take hl hsel hcov b
    | bodyDrop c l b =>
      obtain ⟨hsel, rfl⟩ := exec_bodyDrop_next.mp h
      exact covered_bodyCommon_of_ne_take hl hsel nofun hcov b
    | csumOk b =>
      obtain ⟨hs, -, rfl⟩ := exec_csumOk_next.mp h
      obtain ⟨-, -, hend⟩ := (controlInv_checksumPending hs).mp hctrl
      exact covered_accept hl (inPayload_iff.mpr (.inr hs)) hend hcov
    | _ => cases hi

/-- An event of a clock cycle that may be absent keeps the coverage. -/
theorem covered_event {c : Prop} [Decidable c] {i : Instr} {s t : State} (hinv : s.inv = true) (hcov : s.covered = true)
    (h : if c then exec i s = .next t else t = s) : t.covered = true := by
  split at h
  · exact covered_exec hinv hcov h
  · exact h ▸ hcov

theorem covered_cycle {inp : PortInputs} {s t : State} (hinv : s.inv = true) (hcov : s.covered = true)
    (h : cycle inp s = .next t) : t.covered = true := by
  obtain ⟨-, rfl⟩ | ⟨-, s1, s2, htick, hbyte, hsink⟩ := cycle_next.mp h
  · rfl
  · have hinv1 := inv_event hinv htick
    have hinv2 := inv_event hinv1 hbyte
    exact covered_event hinv2 (covered_event hinv1 (covered_event hinv hcov htick) hbyte) hsink

/-- Settles O40: the edge touches no buffer, and each event of the cycle after it keeps the coverage. -/
theorem stepKeepsTheWindowStaged : Obligations.StepKeepsTheWindowStaged :=
  fun s _ hinv hcov h => covered_cycle (s := edge s) (inv_edge hinv) hcov (step_next.mp h).2

/-! ### Stale staging bytes

Two engines that are alike but for `stage` stay so. Inside a payload their staging buffers also agree on the window bytes met
so far, so that at the end of the payload, where `accept()` copies them, they are equal. -/

/-- `s` with the staging buffer `m` in place of its own. -/
def State.withStage (m : Memory) (s : State) : State := { s with stage := m }

theorem exec_withStage {i : Instr} {s t : State} (hi : buffering i = false) (h : exec i s = .next t) (m : Memory) :
    exec i (s.withStage m) = .next (t.withStage m) := by
  cases i with
  | bodySkip | bodyTake | bodyDrop | csumOk => cases hi
  | reset => cases exec_reset_next.mp h; rfl
  | sinkIgn => cases exec_sinkIgn_next.mp h; rfl
  | _ =>
    obtain ⟨hc, rfl⟩ := whenSelected_next.mp h
    exact whenSelected_of hc _

/-- Inside a payload the buffer `m` agrees with `stage` on the window bytes met so far. -/
def StageAgrees (m : Memory) (s : State) : Prop :=
  inPayload s = true → ∀ a, a < stagedCount s → Memory.read? a m = Memory.read? a s.stage

/-- `s'` is `s` but for bytes in `stage` that the present frame has not written. -/
def SameButStale (s s' : State) : Prop := ∃ m, s' = s.withStage m ∧ StageAgrees m s

theorem SameButStale.refl (s : State) : SameButStale s s := ⟨s.stage, rfl, fun _ _ _ => rfl⟩

theorem KeepsBuffers.stageAgrees {m : Memory} {s t : State} (h : KeepsBuffers s t) (ha : StageAgrees m s) :
    StageAgrees m t := by
  intro ht a hlt
  obtain hzero | ⟨hs, hcount⟩ := h.staged ht
  · omega
  · rw [h.stage]; exact ha hs a (hcount ▸ hlt)

theorem read?_eq_none_of_bufferInv {p : Params} {m : Memory} {a : Nat} (h : bufferInv p m = true) (ha : ¬ a < p.segBytes) :
    Memory.read? a m = none := by
  obtain ⟨-, hb⟩ := bufferInv_iff.mp h
  exact Option.eq_none_iff_forall_ne_some.mpr fun b hread => ha (hb _ (Memory.mem_of_read? hread))

/-- Two buffers in canonical form that agree on every address below `SEG_BYTES` are equal data. -/
theorem eq_of_bufferInv {p : Params} {m m' : Memory} (h : bufferInv p m = true) (h' : bufferInv p m' = true)
    (hr : ∀ a, a < p.segBytes → Memory.read? a m = Memory.read? a m') : m = m' := by
  obtain ⟨hwf, -⟩ := bufferInv_iff.mp h
  obtain ⟨hwf', -⟩ := bufferInv_iff.mp h'
  refine Memory.ext_read? hwf hwf' fun a => ?_
  by_cases ha : a < p.segBytes
  · exact hr a ha
  · rw [read?_eq_none_of_bufferInv h ha, read?_eq_none_of_bufferInv h' ha]

/-- At the end of the payload nothing stale is left. -/
theorem SameButStale.eq_of_end {s s' : State} (h : SameButStale s s') (hl : s.params.legal = true)
    (hp : inPayload s = true) (hend : s.pos.toNat = s.params.expLen)
    (hst : bufferInv s.params s.stage = true) (hst' : bufferInv s'.params s'.stage = true) : s' = s := by
  obtain ⟨m, rfl, ha⟩ := h
  have hm : m = s.stage :=
    eq_of_bufferInv (p := s.params) hst' hst fun a hlt => ha hp a (by rwa [stagedCount_of_end hl hend])
  rw [hm]; rfl

theorem sameButStale_bodyComplete {csumEn last : Bool} {s s' : State} (h : SameButStale s s')
    (hl : s.params.legal = true) (hs : s.state = .bodyPending) (hend : last = true → s.pos.toNat = s.params.expLen)
    (hst : bufferInv s.params s.stage = true) (hst' : bufferInv s'.params s'.stage = true) :
    SameButStale (bodyComplete csumEn last s) (bodyComplete csumEn last s') := by
  have hp : inPayload s = true := inPayload_iff.mpr (.inl hs)
  cases last with
  | false =>
    obtain ⟨m, rfl, ha⟩ := h
    exact ⟨m, rfl, fun _ => ha hp⟩
  | true =>
    rw [h.eq_of_end hl hp (hend rfl) hst hst']
    exact .refl _

/-- A payload byte outside the window: the window bytes met so far are the same as before. -/
theorem sameButStale_bodyCommon_of_ne_take {w : Window} {csumEn last : Bool} {s s' : State} (h : SameButStale s s')
    (hinv : s.inv = true) (hinv' : s'.inv = true) (hsel : bodySelected w csumEn last s = true) (hw : w ≠ .take)
    (b : Byte) : SameButStale (bodyCommon csumEn last b s) (bodyCommon csumEn last b s') := by
  obtain ⟨hl, -, -, -, hst, -⟩ := inv_iff.mp hinv
  obtain ⟨-, -, -, -, hst', -⟩ := inv_iff.mp hinv'
  obtain ⟨hs, hpos, rfl, -⟩ := bodySelected_iff.mp hsel
  have hcount := stagedCount_bodyCount_of_ne_take hl hpos hw b
  obtain ⟨m, rfl, ha⟩ := h
  have hsame : SameButStale (bodyCount b s) (bodyCount b (s.withStage m)) :=
    ⟨m, rfl, fun hp a hlt => ha hp a (hcount ▸ hlt)⟩
  exact sameButStale_bodyComplete hsame hl hs (bodyCount_pos_end hl hsel b) hst hst'

/-- A payload byte inside the window is written to both buffers at the first address not staged yet. -/
theorem sameButStale_bodyCommon_of_take {csumEn last : Bool} {s s' : State} (h : SameButStale s s')
    (hinv : s.inv = true) (hinv' : s'.inv = true) (hsel : bodySelected .take csumEn last s = true) (b : Byte) :
    SameButStale (bodyCommon csumEn last b (stageWrite (stageAddress s) b s))
      (bodyCommon csumEn last b (stageWrite (stageAddress s) b s')) := by
  obtain ⟨hl, -, -, -, hst, -⟩ := inv_iff.mp hinv
  obtain ⟨-, -, -, -, hst', -⟩ := inv_iff.mp hinv'
  obtain ⟨hs, hpos, hw, -⟩ := bodySelected_iff.mp hsel
  have hcount := stagedCount_bodyCount_of_take hl hpos hw b
  obtain ⟨m, rfl, ha⟩ := h
  have hagree : StageAgrees (Memory.write (stageAddress s) b m) (bodyCount b (stageWrite (stageAddress s) b s)) := by
    intro hp a hlt
    have hle : a < stageAddress s + 1 := hcount ▸ hlt
    rw [bodyCount_stage, stageWrite_stage, Memory.read?_write, Memory.read?_write]
    split
    next => rfl
    next hne => exact ha hp a (by rw [stagedCount_of_take hw]; omega)
  have hsame : SameButStale (bodyCount b (stageWrite (stageAddress s) b s))
      (bodyCount b (stageWrite (stageAddress s) b (s.withStage m))) := ⟨_, rfl, hagree⟩
  exact sameButStale_bodyComplete hsame hl hs (bodyCount_pos_end (s := stageWrite (stageAddress s) b s) hl hsel b)
    (bufferInv_write hst (stageAddress_lt hw) b) (bufferInv_write hst' (stageAddress_lt hw) b)

/-- An operation that runs on one engine runs on the other. -/
theorem sameButStale_exec {i : Instr} {s s' t : State} (h : SameButStale s s') (hinv : s.inv = true)
    (hinv' : s'.inv = true) (ht : exec i s = .next t) : ∃ t', exec i s' = .next t' ∧ SameButStale t t' := by
  have ⟨m, hm, ha⟩ := h
  subst hm
  cases hi : buffering i with
  | false =>
    exact ⟨t.withStage m, exec_withStage hi ht m, m, rfl, (exec_keepsBuffers hi ht).stageAgrees ha⟩
  | true =>
    cases i with
    | bodySkip c l b =>
      obtain ⟨hsel, rfl⟩ := exec_bodySkip_next.mp ht
      exact ⟨_, exec_bodySkip_next.mpr ⟨hsel, rfl⟩, sameButStale_bodyCommon_of_ne_take h hinv hinv' hsel nofun b⟩
    | bodyTake c l b =>
      obtain ⟨hsel, rfl⟩ := exec_bodyTake_next.mp ht
      exact ⟨_, exec_bodyTake_next.mpr ⟨hsel, rfl⟩, sameButStale_bodyCommon_of_take h hinv hinv' hsel b⟩
    | bodyDrop c l b =>
      obtain ⟨hsel, rfl⟩ := exec_bodyDrop_next.mp ht
      exact ⟨_, exec_bodyDrop_next.mpr ⟨hsel, rfl⟩, sameButStale_bodyCommon_of_ne_take h hinv hinv' hsel nofun b⟩
    | csumOk b =>
      obtain ⟨hs, -, -⟩ := exec_csumOk_next.mp ht
      obtain ⟨hl, hctrl, -, -, hst, -⟩ := inv_iff.mp hinv
      obtain ⟨-, -, -, -, hst', -⟩ := inv_iff.mp hinv'
      obtain ⟨-, -, hend⟩ := (controlInv_checksumPending hs).mp hctrl
      rw [h.eq_of_end hl (inPayload_iff.mpr (.inr hs)) hend hst hst']
      exact ⟨t, ht, .refl t⟩
    | _ => cases hi

/-- An event of a clock cycle that may be absent, on both engines. -/
theorem sameButStale_event {c : Prop} [Decidable c] {i : Instr} {s s' t : State} (h : SameButStale s s')
    (hinv : s.inv = true) (hinv' : s'.inv = true) (ht : if c then exec i s = .next t else t = s) :
    ∃ t', (if c then exec i s' = .next t' else t' = s') ∧ SameButStale t t' ∧ t.inv = true ∧ t'.inv = true := by
  by_cases hc : c
  · simp only [if_pos hc] at ht ⊢
    obtain ⟨t', ht', hsame⟩ := sameButStale_exec h hinv hinv' ht
    exact ⟨t', ht', hsame, inv_exec hinv ht, inv_exec hinv' ht'⟩
  · simp only [if_neg hc] at ht ⊢
    subst ht
    exact ⟨s', rfl, h, hinv, hinv'⟩

/-- The operations selected by the events do not depend on `stage`. -/
theorem SameButStale.selects {s s' : State} (h : SameButStale s s') :
    s'.state = s.state ∧ tickOp s' = tickOp s ∧ ∀ b, byteOp s' b = byteOp s b := by
  obtain ⟨m, rfl, -⟩ := h
  exact ⟨rfl, rfl, fun _ => rfl⟩

theorem sameButStale_cycle {inp : PortInputs} {s s' t : State} (h : SameButStale s s') (hinv : s.inv = true)
    (hinv' : s'.inv = true) (ht : cycle inp s = .next t) : ∃ t', cycle inp s' = .next t' ∧ SameButStale t t' := by
  obtain ⟨hstate, htickOp, -⟩ := h.selects
  obtain ⟨hrst, rfl⟩ | ⟨hrst, s1, s2, htick, hbyte, hsink⟩ := cycle_next.mp ht
  · obtain ⟨m, rfl, -⟩ := h
    exact ⟨_, cycle_next.mpr (.inl ⟨hrst, rfl⟩), m, rfl, nofun⟩
  · obtain ⟨s1', htick', h1, hinv1, hinv1'⟩ := sameButStale_event h hinv hinv' htick
    obtain ⟨-, -, hbyteOp⟩ := h1.selects
    obtain ⟨s2', hbyte', h2, hinv2, hinv2'⟩ := sameButStale_event h1 hinv1 hinv1' hbyte
    obtain ⟨t', hsink', h3, -⟩ := sameButStale_event h2 hinv2 hinv2' hsink
    refine ⟨t', cycle_next.mpr (.inr ⟨hrst, s1', s2', ?_, ?_, ?_⟩), h3⟩
    · rwa [htickOp]
    · rwa [hstate, hbyteOp]
    · rwa [hstate]

theorem inv_atEdge {s : State} (h : s.inv = true) : (atEdge s).inv = true :=
  inv_clearReport (s := { s with clock := s.clock + 1 }) h

theorem sameButStale_atEdge {s s' : State} (h : SameButStale s s') : SameButStale (atEdge s) (atEdge s') := by
  obtain ⟨m, rfl, ha⟩ := h
  exact ⟨m, rfl, ha⟩

/-- Runs over the same inputs, by induction on them. -/
theorem sameButStale_runInputs {s s' : State} (h : SameButStale s s') (hinv : s.inv = true) (hinv' : s'.inv = true)
    (ins : List PortInputs) :
    ∃ t t', runInputs ins s = .next t ∧ runInputs ins s' = .next t' ∧ SameButStale t t' := by
  induction ins generalizing s s' with
  | nil => exact ⟨s, s', rfl, rfl, h⟩
  | cons inp ins ih =>
    obtain ⟨u, hu⟩ := cycle_runs (inv_atEdge hinv) inp
    obtain ⟨u', hu', hsame⟩ := sameButStale_cycle (sameButStale_atEdge h) (inv_atEdge hinv) (inv_atEdge hinv') hu
    rw [runInputs_of_cycle (inv_iff.mp hinv).1 hu, runInputs_of_cycle (inv_iff.mp hinv').1 hu']
    exact ih hsame (inv_cycle (inv_atEdge hinv) hu) (inv_cycle (inv_atEdge hinv') hu')

/-- Settles O59: outside a payload all of `stage` is stale, and no output port reads it. -/
theorem staleStagingBytesAreUnobservable : Obligations.StaleStagingBytesAreUnobservable := by
  intro s other ins a hinv hinv' hbody hcsum
  have hstale : SameButStale s (s.withStage other) :=
    ⟨other, rfl, fun hp => absurd (inPayload_iff.mp hp) (not_or.mpr ⟨hbody, hcsum⟩)⟩
  obtain ⟨t, t', ht, ht', m, rfl, -⟩ := sameButStale_runInputs hstale hinv hinv' ins
  exact ⟨t, t.withStage m, ht, ht', rfl, rfl⟩

end Sys2Proof.Machine

/-! ## Proofs: the encoding (30_encoding.md)

The encoder and the decoder (R91, R93), the operation map row by row (R93, R94), the operations where their key selects
them (R93, R94), a clock cycle with one event (R91, R176), and the declared length in both byte orders (R82, R85). -/

namespace Sys2Proof.Machine

/-! ### The decoder undoes the encoder -/

/-- The row that the key of an operation selects has the operation's event class and builds it back from the key's
fields. -/
theorem selectRow_encodeKey (i : Instr) : ∃ r, selectRow (encodeKey i) = some r ∧ r.isByte = i.operand.isSome ∧
    r.build (keyC (encodeKey i) 3) (keyC (encodeKey i) 2) (i.operand.getD 0) = i := by
  cases i with
  | bodySkip c l b | bodyTake c l b | bodyDrop c l b =>
    simp only [encodeKey]; cases c <;> cases l <;> exact ⟨_, rfl, rfl, rfl⟩
  | _ => simp only [encodeKey]; exact ⟨_, rfl, rfl, rfl⟩

/-- Settles O42: the key's row reads the operand byte exactly where the encoder wrote one. -/
theorem decodeOfEncodeIsTheInstruction : Obligations.DecodeOfEncodeIsTheInstruction := by
  intro i rest
  obtain ⟨r, hsel, hbyte, hbuild⟩ := selectRow_encodeKey i
  rw [encode]
  cases hop : i.operand with
  | none =>
    rw [hop] at hbyte hbuild
    exact (decode_bareRow hsel hbyte rest).trans (congrArg (fun j => Except.ok (j, rest)) hbuild)
  | some b =>
    rw [hop] at hbyte hbuild
    exact (decode_byteRow hsel hbyte b rest).trans (congrArg (fun j => Except.ok (j, rest)) hbuild)

/-! ### The rows of the operation map -/

theorem OpRow.matchesKey_iff {r : OpRow} {k : BitVec 10} : r.matchesKey k = true ↔ k &&& r.mask = r.value := by
  simp [OpRow.matchesKey]

/-- Two rows that ask different values of a bit both of them read match no common key. -/
theorem OpRow.not_matchesKey_both {r r' : OpRow} (h : r.value &&& r'.mask ≠ r'.value &&& r.mask) {k : BitVec 10}
    (hr : r.matchesKey k = true) : ¬ r'.matchesKey k = true := by
  intro hr'
  rw [OpRow.matchesKey_iff] at hr hr'
  apply h
  rw [← hr, ← hr', BitVec.and_assoc, BitVec.and_assoc, BitVec.and_comm r.mask]

/-- Any two rows of the map ask different values of a bit both of them read. -/
theorem opRows_exclusive : opRows.Pairwise fun r r' => r.value &&& r'.mask ≠ r'.value &&& r.mask := by decide

/-- Every code of two bits is an event class (R90). -/
theorem EventClass.exists_code_eq (e : BitVec 2) : ∃ ev : EventClass, ev.code = e := by
  have he : e = 0b00 ∨ e = 0b01 ∨ e = 0b10 ∨ e = 0b11 := by revert e; decide
  obtain rfl | rfl | rfl | rfl := he
  · exact ⟨.byte, rfl⟩
  · exact ⟨.tick, rfl⟩
  · exact ⟨.sink, rfl⟩
  · exact ⟨.none, rfl⟩

/-- Every word of ten bits is the key of its fields (R91). -/
theorem exists_mkKey (k : BitVec 10) : ∃ rst ev st c3 c2 c1 c0, k = mkKey rst ev st c3 c2 c1 c0 := by
  obtain ⟨ev, hev⟩ := EventClass.exists_code_eq (keyEv k)
  refine ⟨keyRst k, ev, keySt k, keyC k 3, keyC k 2, keyC k 1, keyC k 0, BitVec.eq_of_getLsbD_eq fun i hi => ?_⟩
  rw [mkKey, hev]
  change _ = BitVec.getLsbD (w := 1 + 2 + 3 + 1 + 1 + 1 + 1) _ i
  simp only [BitVec.getLsbD_append]
  interval_cases i <;> simp [keyRst, keyEv, keySt, keyC]

/-- What the decoder answers comes from a row that matches. -/
theorem exists_row_of_decodeKey {k : BitVec 10} {b : Byte} {i : Instr} (h : decodeKey k b = .ok i) :
    ∃ r ∈ opRows, r.matchesKey k = true := by
  unfold decodeKey selectRow at h
  cases hf : opRows.find? (·.matchesKey k) with
  | none => simp [hf] at h
  | some r => exact ⟨r, List.mem_of_find?_eq_some hf, by simpa using List.find?_some hf⟩

/-- Some row matches a key that can occur: RESET one with `rst = 1`, else a row of the key's event class, and no event has
the fourth code. -/
theorem exists_row_matchesKey {k : BitVec 10} (h : keyImpossible k = false) : ∃ r ∈ opRows, r.matchesKey k = true := by
  obtain ⟨rst, ev, st, c3, c2, c1, c0, rfl⟩ := exists_mkKey k
  cases rst with
  | true => exact exists_row_of_decodeKey (decodeKey_reset ev st c3 c2 c1 c0 0)
  | false =>
    revert st c3 c2 c1 c0
    cases ev with
    | byte => decide
    | tick => decide
    | sink => decide
    | none => decide

/-- The row a key selects is the only row that matches it (R93): `selectRow` takes the first match, and a second would have
to agree with it on every bit that both read. -/
theorem filter_opRows_of_possible {k : BitVec 10} (h : keyImpossible k = false) :
    ∃ r, opRows.filter (·.matchesKey k) = [r] ∧ selectRow k = some r := by
  obtain ⟨r, hmem, hr⟩ := exists_row_matchesKey h
  have hsel : selectRow k = (opRows.filter (·.matchesKey k)).head? := by
    simp [selectRow, h, List.head?_filter]
  have hrows : ∀ q ∈ opRows.filter (·.matchesKey k), q.matchesKey k = true := fun _ hq => (List.mem_filter.mp hq).2
  have hfound : r ∈ opRows.filter (·.matchesKey k) := List.mem_filter.mpr ⟨hmem, hr⟩
  have hexcl := opRows_exclusive.filter (·.matchesKey k)
  match hf : opRows.filter (·.matchesKey k) with
  | [] => simp [hf] at hfound
  | [q] => exact ⟨q, hf, by rw [hsel, hf]; rfl⟩
  | q :: q' :: _ =>
    rw [hf] at hexcl hrows
    have hqq' := List.rel_of_pairwise_cons hexcl List.mem_cons_self
    exact absurd (hrows q' (by simp)) (OpRow.not_matchesKey_both hqq' (hrows q (by simp)))

theorem selectRow_of_impossible {k : BitVec 10} (h : keyImpossible k = true) : selectRow k = none := if_pos h

theorem decodeKey_of_selectRow {k : BitVec 10} {r : OpRow} (h : selectRow k = some r) (b : Byte) :
    decodeKey k b = .ok (r.build (keyC k 3) (keyC k 2) b) := by
  rw [decodeKey, h]

/-- Settles O43: some row matches, no two rows can, and the decoder takes the first that does. -/
theorem eachKeySelectsOneRow : Obligations.EachKeySelectsOneRow := by
  intro k h
  obtain ⟨r, hone, hsel⟩ := filter_opRows_of_possible h
  exact ⟨r, hone, decodeKey_of_selectRow hsel⟩

/-- The decoder refuses exactly the keys it takes for impossible: every other key selects a row. -/
theorem decodeKey_error_iff {k : BitVec 10} {b : Byte} :
    decodeKey k b = .error (.noOperation k) ↔ keyImpossible k = true := by
  cases h : keyImpossible k with
  | true => simp [decodeKey, selectRow_of_impossible h]
  | false =>
    obtain ⟨r, -, hsel⟩ := filter_opRows_of_possible h
    simp [decodeKey_of_selectRow hsel b]

/-- The keys of R94, rule by rule. -/
theorem keyImpossible_iff {k : BitVec 10} : keyImpossible k = true ↔
    keyRst k = false ∧
      (keyEv k = 0b11 ∨ (keyEv k = 0b00 ∧ keySt k = 5) ∨ keySt k = 7 ∨
        (keyEv k = 0b00 ∧ keySt k = 3 ∧ keyC k 1 = true ∧ keyC k 0 = true) ∨
        (keyEv k = 0b01 ∧ keyC k 2 = false ∧ (keyC k 1 = true ∨ keyC k 0 = true))) := by
  simp [keyImpossible, and_assoc, or_assoc]

/-- Settles O44: the decoder refuses the keys it takes for impossible, which are those of R94. -/
theorem impossibleKeysSelectNothing : Obligations.ImpossibleKeysSelectNothing :=
  fun _ _ => decodeKey_error_iff.trans keyImpossible_iff

/-- Settles O45: the decoder evaluated on each word. -/
theorem wordsOfTheMapDecode : Obligations.WordsOfTheMapDecode := by
  unfold Obligations.WordsOfTheMapDecode
  decide

/-! ### An operation runs where its key selects it -/

theorem whenSelected_next_or_notSelected (c : Bool) (u : State) :
    (∃ t, whenSelected c u = .next t) ∨ whenSelected c u = .refused .notSelected := by
  cases c
  · exact .inr rfl
  · exact .inl ⟨u, rfl⟩

/-- An operation has a next state or is refused by name: none of them faults. -/
theorem exec_next_or_notSelected (i : Instr) (s : State) :
    (∃ t, exec i s = .next t) ∨ exec i s = .refused .notSelected := by
  cases i with
  | reset | sinkIgn => exact .inl ⟨_, rfl⟩
  | _ => exact whenSelected_next_or_notSelected _ _

/-- What holds wherever an operation runs, and fails in a state, makes the operation refused there. -/
theorem exec_refused_of_not {p : Prop} {i : Instr} {s : State} (hrun : ∀ {t}, exec i s = .next t → p) (hp : ¬ p) :
    exec i s = .refused .notSelected :=
  (exec_next_or_notSelected i s).resolve_left fun ⟨_, h⟩ => hp (hrun h)

/-- A BYTE operation runs only outside VALID and where the byte it consumes selects it: its clause repeats what the key
says (R92, R93). -/
theorem byteOp_of_exec {i : Instr} {s t : State} {b : Byte} (hb : i.operand = some b) (h : exec i s = .next t) :
    s.state ≠ .valid ∧ byteOp s b = i := by
  cases i with
  | reset | tickIdle | tickCount | tickRto | tickPto | sinkDone | sinkIgn => cases hb
  | huntMiss b => cases hb; obtain ⟨hs, hh, -⟩ := exec_huntMiss_next.mp h; simp [byteOp, hs, hh]
  | huntSync b => cases hb; obtain ⟨hs, hh, -⟩ := exec_huntSync_next.mp h; simp [byteOp, hs, hh]
  | lenB0 b => cases hb; obtain ⟨hs, -⟩ := exec_lenB0_next.mp h; simp [byteOp, hs]
  | lenB1Ok b => cases hb; obtain ⟨hs, hok, -⟩ := exec_lenB1Ok_next.mp h; simp [byteOp, hs, hok]
  | lenB1Bad b => cases hb; obtain ⟨hs, hok, hd, -⟩ := exec_lenB1Bad_next.mp h; simp [byteOp, hs, hok, hd]
  | lenB1Drain b => cases hb; obtain ⟨hs, hok, hd, -⟩ := exec_lenB1Drain_next.mp h; simp [byteOp, hs, hok, hd]
  | drainByte b =>
    cases hb
    obtain ⟨hs, hcnt, -⟩ := exec_drainByte_next.mp h
    have hl : ¬ lastDrain s = true := fun hl => by have := lastDrain_iff.mp hl; omega
    simp [byteOp, hs, hl]
  | drainLast b => cases hb; obtain ⟨hs, hl, -⟩ := exec_drainLast_next.mp h; simp [byteOp, hs, hl]
  | bodySkip c l b | bodyTake c l b | bodyDrop c l b =>
    cases hb
    obtain ⟨hsel, -⟩ := whenSelected_next.mp h
    obtain ⟨hs, -, hw, rfl, rfl⟩ := bodySelected_iff.mp hsel
    simp [byteOp, hs, hw]
  | csumOk b => cases hb; obtain ⟨hs, hck, -⟩ := exec_csumOk_next.mp h; simp [byteOp, hs, hck]
  | csumBad b => cases hb; obtain ⟨hs, hck, -⟩ := exec_csumBad_next.mp h; simp [byteOp, hs, hck]

/-- A TICK operation runs only where the tick selects it (R172 to R175). -/
theorem tickOp_of_exec {i : Instr} {s t : State} (hi : i = .tickIdle ∨ i = .tickCount ∨ i = .tickRto ∨ i = .tickPto)
    (h : exec i s = .next t) : tickOp s = i := by
  obtain rfl | rfl | rfl | rfl := hi
  · obtain ⟨ht, -⟩ := exec_tickIdle_next.mp h; simp [tickOp, ht]
  · obtain ⟨ht, hf, hb, -⟩ := exec_tickCount_next.mp h; simp [tickOp, ht, hf, hb]
  · obtain ⟨ht, hb, hf, -⟩ := exec_tickRto_next.mp h; simp [tickOp, ht, hf, hb]
  · obtain ⟨ht, hf, -⟩ := exec_tickPto_next.mp h; simp [tickOp, ht, hf]

theorem decode_sinkKey_sinkDone_iff {start s : State} {b : Byte} :
    decodeKey (sinkKey start s) b = .ok .sinkDone ↔ start.state = .valid := by
  rw [decode_sinkKey]
  by_cases h : start.state = .valid <;> simp [h]

theorem decode_sinkKey_sinkIgn_iff {start s : State} {b : Byte} :
    decodeKey (sinkKey start s) b = .ok .sinkIgn ↔ start.state ≠ .valid := by
  rw [decode_sinkKey]
  by_cases h : start.state = .valid <;> simp [h]

/-- Settles O21: the selected operation runs, under the invariants, and an operation that runs is the one its key selects,
so that any other is refused. -/
theorem operationsRunWhereTheirKeySelectsThem : Obligations.OperationsRunWhereTheirKeySelectsThem := by
  intro i s hinv
  refine ⟨fun b hb => ⟨fun ⟨hv, hd⟩ => ?_, exec_refused_of_not fun h => ?_⟩,
    fun hi => ⟨fun hd => ?_, exec_refused_of_not fun h => ?_⟩,
    fun hd => ⟨_, exec_sinkDone_next.mpr ⟨decode_sinkKey_sinkDone_iff.mp hd, rfl⟩⟩,
    exec_refused_of_not fun h => decode_sinkKey_sinkDone_iff.mpr (exec_sinkDone_next.mp h).1,
    decode_resetKey s 0, ⟨_, rfl⟩, decode_sinkKey_sinkIgn_iff, ⟨s, rfl⟩⟩
  · obtain rfl : byteOp s b = i := by simpa [decode_byteKey hv] using hd
    exact byteOp_runs hinv hv b
  · obtain ⟨hv, hop⟩ := byteOp_of_exec hb h
    exact ⟨hv, by rw [decode_byteKey hv, hop]⟩
  · obtain rfl : tickOp s = i := by simpa [decode_tickKey] using hd
    exact tick_runs s
  · rw [decode_tickKey, tickOp_of_exec hi h]

/-! ### A clock cycle with one event -/

theorem thenDo_next_self (o : Result) : thenDo o .next = o := by
  cases o <;> rfl

section
variable {inp : PortInputs} {s : State}

theorem tickEvent_of_no_tick (h : inp.tick = false) : tickEvent inp s = .next s := by
  simp [h]

theorem byteEvent_of_no_byte (h : inp.rxValid = false) : byteEvent s inp = .next := by
  funext u; simp [byteEvent, h]

theorem sinkEvent_of_no_sink (h : inp.sinkDone = false) : sinkEvent s inp = .next := by
  funext u; simp [h]

theorem cycle_of_rst (hr : inp.rst = true) : cycle inp s = dispatch (resetKey s) 0 s := if_pos hr

theorem cycle_of_no_rst (hr : inp.rst = false) :
    cycle inp s = thenDo (thenDo (tickEvent inp s) (byteEvent s inp)) (sinkEvent s inp) := if_neg (by simp [hr])

theorem cycle_of_tick (hr : inp.rst = false) (ht : inp.tick = true) (hb : inp.rxValid = false)
    (hs : inp.sinkDone = false) : cycle inp s = dispatch (tickKey s) 0 s := by
  rw [cycle_of_no_rst hr, byteEvent_of_no_byte hb, sinkEvent_of_no_sink hs, thenDo_next_self, thenDo_next_self]
  exact if_pos ht

theorem cycle_of_byte (hr : inp.rst = false) (ht : inp.tick = false) (hb : inp.rxValid = true)
    (hv : s.state ≠ .valid) (hs : inp.sinkDone = false) :
    cycle inp s = dispatch (byteKey s inp.rxData) inp.rxData s := by
  rw [cycle_of_no_rst hr, tickEvent_of_no_tick ht, sinkEvent_of_no_sink hs, thenDo_next_self, thenDo_of_next]
  exact if_pos (by simp [hb, hv])

theorem cycle_of_sink (hr : inp.rst = false) (ht : inp.tick = false) (hb : inp.rxValid = false)
    (hs : inp.sinkDone = true) : cycle inp s = dispatch (sinkKey s s) 0 s := by
  rw [cycle_of_no_rst hr, tickEvent_of_no_tick ht, byteEvent_of_no_byte hb, thenDo_of_next, thenDo_of_next]
  exact if_pos hs

end

/-- Settles O26: the step is the cycle on the state the clock edge leaves, the cycle with one event is the dispatch of its
key, and the dispatch runs what the key selects. -/
theorem stepRunsTheSelectedOperation : Obligations.StepRunsTheSelectedOperation := by
  intro s inp i hl hin e
  have hstep : step s = cycle inp e := step_of_sampled hl hin
  rw [hstep]
  refine ⟨fun hr hd => ?_, fun hr ht hb hs hd => ?_, fun hr ht hb hv hs hd => ?_, fun hr ht hb hs hd => ?_⟩
  · rw [cycle_of_rst hr]; exact dispatch_of_decode hd e
  · rw [cycle_of_tick hr ht hb hs]; exact dispatch_of_decode hd e
  · rw [cycle_of_byte (s := e) hr ht hb hv hs]; exact dispatch_of_decode hd e
  · rw [cycle_of_sink hr ht hb hs]; exact dispatch_of_decode hd e

/-! ### The length field -/

/-- The two bytes a sender writes for a length below `65536` are read back as that length, in either order (R85). -/
theorem assembleLen_lenBytes {p : Params} {n : Nat} {b0 b1 : Byte} (hn : n < 65536) (h : p.lenBytes n = [b0, b1]) :
    (assembleLen p.lenBigEndian b0 b1).toNat = n := by
  rw [assembleLen_toNat]
  unfold Params.lenBytes at h
  split at h
  next hbig =>
    obtain ⟨rfl, rfl⟩ : BitVec.ofNat 8 (n / 256) = b0 ∧ BitVec.ofNat 8 n = b1 := by simpa using h
    rw [if_pos hbig, BitVec.toNat_ofNat, BitVec.toNat_ofNat]
    omega
  next hlittle =>
    obtain ⟨rfl, rfl⟩ : BitVec.ofNat 8 n = b0 ∧ BitVec.ofNat 8 (n / 256) = b1 := by simpa using h
    rw [if_neg hlittle, BitVec.toNat_ofNat, BitVec.toNat_ofNat]
    omega

/-- Settles O46: the value in both orders (R82), and what the sender's bytes assemble to. -/
theorem lengthFieldIsAssembledInItsByteOrder : Obligations.LengthFieldIsAssembledInItsByteOrder :=
  ⟨fun b0 b1 => ⟨assembleLen_toNat true b0 b1, assembleLen_toNat false b0 b1⟩, fun _ _ _ _ => assembleLen_lenBytes⟩

end Sys2Proof.Machine

/-! ## Proofs: SyncHunter (40_synchunter.md)

The two operations of the hunt (R111, R112), the first marker pair of a hunt (R110, R113), silence in HUNTING (R114), and the
operations that can be selected in an engine with given parameters ("never taken when", R112 to R194). -/

namespace Sys2Proof.Machine

/-! ### The two operations of the hunt -/

section
variable {s : State} {b : Byte}

theorem byteOp_of_hit (hs : s.state = .hunting) (hh : hit s b = true) : byteOp s b = .huntSync b := by
  simp [byteOp, hs, hh]

theorem byteOp_of_not_hit (hs : s.state = .hunting) (hh : hit s b = false) : byteOp s b = .huntMiss b := by
  simp [byteOp, hs, hh]

theorem ne_valid_of_hunting (hs : s.state = .hunting) : s.state ≠ .valid := by simp [hs]

end

/-- Settles O2: without the pair `hit` is false, which is what selects HUNT_MISS. -/
theorem huntMissRemembersTheByte : Obligations.HuntMissRemembersTheByte := by
  intro s b hs hpair
  have hh : hit s b = false := Bool.eq_false_iff.mpr (mt hit_iff.mp hpair)
  rw [decode_byteKey (ne_valid_of_hunting hs), byteOp_of_not_hit hs hh]
  exact ⟨rfl, exec_huntMiss_next.mpr ⟨hs, hh, rfl⟩⟩

/-- Settles O3: with the pair `hit` is true, which is what selects HUNT_SYNC. -/
theorem huntSyncEntersSynced : Obligations.HuntSyncEntersSynced := by
  intro s b hs hvalid hprev hb
  have hh : hit s b = true := hit_iff.mpr ⟨hvalid, hprev, hb⟩
  rw [decode_byteKey (ne_valid_of_hunting hs), byteOp_of_hit hs hh]
  exact ⟨rfl, exec_huntSync_next.mpr ⟨hs, hh, rfl⟩⟩

/-! ### The first marker pair of a hunt

While the engine hunts, its candidate is the last byte of the hunt, so `hit` compares the two last bytes with the marker
(R113). -/

/-- The marker candidate (R24): the byte in `prev`, where `prev_valid` says that there is one. -/
def candidate? (s : State) : Option Byte := if s.prevValid then some s.prev else none

theorem candidate?_eq_some_iff {s : State} {m : Byte} : candidate? s = some m ↔ s.prevValid = true ∧ s.prev = m := by
  simp [candidate?]

theorem hit_iff_candidate {s : State} {b : Byte} :
    hit s b = true ↔ candidate? s = some s.params.marker1 ∧ b = s.params.marker2 := by
  rw [hit_iff, candidate?_eq_some_iff, and_assoc]

/-- A list of bytes ends with the marker pair exactly when its last two bytes are the pair. -/
theorem mark_suffix_concat_iff {p : Params} {bytes : List Byte} {b : Byte} :
    p.mark <:+ bytes ++ [b] ↔ bytes.getLast? = some p.marker1 ∧ b = p.marker2 := by
  have hmark : p.mark = [p.marker1] ++ [p.marker2] := rfl
  rw [List.getLast?_eq_some_iff, hmark]
  constructor
  · rintro ⟨pre, h⟩
    rw [← List.append_assoc] at h
    obtain ⟨hbytes, hb⟩ := List.append_inj' h rfl
    exact ⟨⟨pre, hbytes.symm⟩, (List.singleton_inj.mp hb).symm⟩
  · rintro ⟨⟨pre, rfl⟩, rfl⟩
    exact ⟨pre, (List.append_assoc _ _ _).symm⟩

@[simp] theorem atEdge_state (s : State) : (atEdge s).state = s.state := rfl

/-- A run with one byte offered runs the operation that the byte selects. -/
theorem runInputs_offer {s t : State} (hl : s.params.legal = true) (hv : s.state ≠ .valid) {b : Byte}
    (h : exec (byteOp s b) (atEdge s) = .next t) : runInputs [PortInputs.offer b] s = .next t :=
  runInputs_of_cycle hl ((cycle_offer (s := atEdge s) hv b).trans h) []

theorem offerAll_concat (bytes : List Byte) (b : Byte) :
    offerAll (bytes ++ [b]) = offerAll bytes ++ [PortInputs.offer b] := List.map_append

section
variable {s : State} (hl : s.params.legal = true) (hs : s.state = .hunting)
include hl hs

theorem runInputs_offer_of_not_hit {b : Byte} (hh : hit s b = false) :
    runInputs [PortInputs.offer b] s = .next { atEdge s with prev := b, prevValid := true } := by
  apply runInputs_offer hl (ne_valid_of_hunting hs)
  rw [byteOp_of_not_hit hs hh]
  exact exec_huntMiss_next.mpr ⟨hs, hh, rfl⟩

theorem runInputs_offer_of_hit {b : Byte} (hh : hit s b = true) :
    ∃ t, runInputs [PortInputs.offer b] s = .next t ∧ t.state = .synced := by
  have hexec := (exec_huntSync_next (s := atEdge s)).mpr ⟨hs, hh, rfl⟩
  rw [← byteOp_of_hit hs hh] at hexec
  exact ⟨_, runInputs_offer hl (ne_valid_of_hunting hs) hexec, rfl⟩

/-- While the marker pair does not stand in the bytes of a fresh hunt, the engine hunts on, and its candidate is the last
of them. By induction on the bytes, the last byte apart. -/
theorem runInputs_hunt_without_mark (hp : s.prevValid = false) {bytes : List Byte} (hno : ¬ s.params.mark <:+: bytes) :
    ∃ t, runInputs (offerAll bytes) s = .next t ∧ t.state = .hunting ∧ t.params = s.params ∧
      candidate? t = bytes.getLast? := by
  induction bytes using List.reverseRecOn with
  | nil => exact ⟨s, rfl, hs, rfl, by simp [candidate?, hp]⟩
  | append_singleton bytes b ih =>
    obtain ⟨t, hrun, ht, hpar, hcand⟩ := ih fun h => hno (h.trans (List.prefix_append _ _).isInfix)
    have hh : hit t b = false := by
      rw [Bool.eq_false_iff, ne_eq, hit_iff_candidate, hpar, hcand, ← mark_suffix_concat_iff]
      exact fun h => hno h.isInfix
    refine ⟨{ atEdge t with prev := b, prevValid := true }, ?_, ht, hpar, ?_⟩
    · rw [offerAll_concat, runInputs_of_run hrun]
      exact runInputs_offer_of_not_hit (hpar ▸ hl) ht hh
    · rw [List.getLast?_concat]; rfl

end

/-- Settles O50: the bytes before the last leave the engine hunting with the last of them as its candidate, so the last
byte hits exactly when it completes the pair. -/
theorem huntSyncsAtTheFirstMarkerPair : Obligations.HuntSyncsAtTheFirstMarkerPair := by
  intro s bytes b hinv hs hp hno
  have hl := (inv_iff.mp hinv).1
  obtain ⟨t, hrun, ht, hpar, hcand⟩ := runInputs_hunt_without_mark hl hs hp hno
  have hpair : s.params.mark <:+ bytes ++ [b] ↔ hit t b = true := by
    rw [mark_suffix_concat_iff, hit_iff_candidate, hpar, hcand]
  rw [offerAll_concat, runInputs_of_run hrun, hpair]
  cases hh : hit t b
  · exact ⟨_, runInputs_offer_of_not_hit (hpar ▸ hl) ht hh, .inr ht, by simp [ht]⟩
  · obtain ⟨u, hu, hsync⟩ := runInputs_offer_of_hit (hpar ▸ hl) ht hh
    exact ⟨u, hu, .inl hsync, by simp [hsync]⟩

/-! ### Silence in HUNTING -/

theorem tickOp_of_hunting {s : State} (hs : s.state = .hunting) : tickOp s = .tickIdle := by simp [tickOp, timed, hs]

theorem atEdge_of_clear {s : State} (hv : s.errValid = false) (hc : s.errCode = 0) :
    atEdge s = { s with clock := s.clock + 1 } := by
  rw [atEdge, ← hv, ← hc]

/-- A tick in HUNTING is TICK_IDLE: with the output registers clear only the clock moves. By induction on the ticks. -/
theorem runInputs_ticks_of_hunting {s : State} (hl : s.params.legal = true) (hs : s.state = .hunting)
    (hv : s.errValid = false) (hc : s.errCode = 0) (n : Nat) :
    runInputs (List.replicate n PortInputs.tickOnly) s = .next { s with clock := s.clock + n } := by
  induction n generalizing s with
  | zero => rfl
  | succ n ih =>
    have hcycle : cycle PortInputs.tickOnly (atEdge s) = .next { s with clock := s.clock + 1 } := by
      rw [cycle_tickOnly, tickOp_of_hunting (s := atEdge s) hs, ← atEdge_of_clear hv hc]
      exact exec_tickIdle_next.mpr ⟨by simp [timed, atEdge, hs], rfl⟩
    rw [List.replicate_succ, runInputs_of_cycle hl hcycle, ih (s := { s with clock := s.clock + 1 }) hl hs hv hc,
      Nat.add_assoc, Nat.add_comm 1 n]

/-- Settles O51: by the invariants `err_code` is 0 where nothing is reported, so the edge clears nothing either. -/
theorem huntingSurvivesAnySilence : Obligations.HuntingSurvivesAnySilence := by
  intro s n hinv hs hv
  obtain ⟨hl, -, -, hf, -⟩ := inv_iff.mp hinv
  obtain ⟨-, herr, -⟩ := flagInv_iff.mp hf
  exact runInputs_ticks_of_hunting hl hs hv (herr.resolve_left (by simp [hv])) n

/-! ### The operations that can be selected

One lemma per group of operations whose rule says "never taken when". -/

section
variable {s : State} {b : Byte}

theorem wellFormed_huntSync (hh : hit s b = true) : (Instr.huntSync b).wellFormed s.params = true := by
  obtain ⟨-, -, rfl⟩ := hit_iff.mp hh
  simp [Instr.wellFormed]

theorem wellFormed_lenB1Drain (hd : doDrain s b = true) : (Instr.lenB1Drain b).wellFormed s.params = true := by
  obtain ⟨hen, -, hcap⟩ := doDrain_iff.mp hd
  simp [Instr.wellFormed, hen, hcap]

/-- A drain lasts at most `DRAIN_CAP` bytes (R127), so one that has more than one byte to go needs a larger cap. -/
theorem wellFormed_drain (hs : s.state = .draining) (hc : controlInv s = true) :
    (if lastDrain s then Instr.drainLast b else .drainByte b).wellFormed s.params = true := by
  obtain ⟨hen, -, hpos, hle⟩ := (controlInv_draining hs).mp hc
  split
  next => simp [Instr.wellFormed, hen]; omega
  next hlast =>
    have hne : s.drainCnt.toNat ≠ 1 := mt lastDrain_iff.mpr hlast
    simp [Instr.wellFormed, hen]; omega

/-- A payload position before the window, which is the frame's last only where the window is empty at the frame's end. -/
theorem wellFormed_bodySkip (hl : s.params.legal = true) (hw : win s = .skip) :
    (Instr.bodySkip s.params.csumEn (lastBody s) b).wellFormed s.params = true := by
  have hlo : s.pos.toNat < 3 * s.params.offsetPixels := windowAt_skip.mp hw
  obtain ⟨hfit, -⟩ := Params.legal_iff.mp hl
  cases hlast : lastBody s
  · simp [Instr.wellFormed]; omega
  · have hend : s.pos.toNat + 1 = 3 * s.params.totalPixels := lastBody_iff.mp hlast
    simp [Instr.wellFormed]; omega

/-- A payload position inside the window, which is the frame's last only where the window ends the frame. -/
theorem wellFormed_bodyTake (hl : s.params.legal = true) (hw : win s = .take) :
    (Instr.bodyTake s.params.csumEn (lastBody s) b).wellFormed s.params = true := by
  obtain ⟨hlo, hhi⟩ : 3 * s.params.offsetPixels ≤ s.pos.toNat ∧
    s.pos.toNat < 3 * (s.params.offsetPixels + s.params.countPixels) := windowAt_take.mp hw
  obtain ⟨hfit, -⟩ := Params.legal_iff.mp hl
  cases hlast : lastBody s
  · simp [Instr.wellFormed]; omega
  · have hend : s.pos.toNat + 1 = 3 * s.params.totalPixels := lastBody_iff.mp hlast
    simp [Instr.wellFormed]; omega

/-- A payload position after the window, so the window does not end the frame. -/
theorem wellFormed_bodyDrop (hpos : s.pos.toNat < s.params.expLen) (hw : win s = .drop) :
    (Instr.bodyDrop s.params.csumEn (lastBody s) b).wellFormed s.params = true := by
  have hhi : 3 * (s.params.offsetPixels + s.params.countPixels) ≤ s.pos.toNat := windowAt_drop.mp hw
  have hend : s.pos.toNat < 3 * s.params.totalPixels := hpos
  simp [Instr.wellFormed]; omega

end

/-- Under the invariants the operation a byte selects can occur with the engine's parameters. -/
theorem wellFormed_byteOp {s : State} (h : s.inv = true) (b : Byte) : (byteOp s b).wellFormed s.params = true := by
  obtain ⟨hl, hc, -⟩ := inv_iff.mp h
  unfold byteOp
  cases hs : s.state with
  | hunting =>
    cases hh : hit s b
    · rfl
    · exact wellFormed_huntSync hh
  | synced | valid => rfl
  | lenPending =>
    cases hok : lenOk s b
    · cases hd : doDrain s b
      · rfl
      · exact wellFormed_lenB1Drain hd
    · rfl
  | bodyPending =>
    obtain ⟨-, hpos⟩ := (controlInv_bodyPending hs).mp hc
    cases hw : win s
    · exact wellFormed_bodySkip hl hw
    · exact wellFormed_bodyTake hl hw
    · exact wellFormed_bodyDrop hpos hw
  | checksumPending =>
    obtain ⟨hen, -⟩ := (controlInv_checksumPending hs).mp hc
    cases ckOk s b <;> exact hen
  | draining => exact wellFormed_drain hs hc

/-- A tick is counted only where the byte timer has room below `BYTE_TIMEOUT` (R173). -/
theorem wellFormed_tickOp (s : State) : (tickOp s).wellFormed s.params = true := by
  unfold tickOp
  cases htimed : timed s
  · rfl
  · cases hf : fto s
    · cases hb : bto s
      · have hroom : s.byteTimer.toNat + 1 < s.params.byteTimeout := by simpa [bto, htimed] using hb
        simp [Instr.wellFormed]; omega
      · rfl
    · rfl

/-- Settles O41: the keys select `byteOp` and `tickOp`, both of which can occur with the parameters. -/
theorem selectedOperationsFitTheParameters : Obligations.SelectedOperationsFitTheParameters := by
  intro s b i h
  refine ⟨fun hv hi => ?_, fun hi => ?_⟩
  · obtain rfl : byteOp s b = i := by simpa [decode_byteKey hv] using hi
    exact wellFormed_byteOp h b
  · obtain rfl : tickOp s = i := by simpa [decode_tickKey] using hi
    exact wellFormed_tickOp s

end Sys2Proof.Machine

/-! ## Proofs: HeaderReader (41_headerreader.md)

The six operations of the header parser (R121 to R126). Each statement has two halves, that the byte selects the operation
and what the operation does. The clause of a BYTE operation repeats what its key says, so both follow from the run of
the operation, and what is left of each rule is its clause. -/

namespace Sys2Proof.Machine

/-! ### An operation that runs is the selected one -/

/-- A BYTE operation that runs on the byte it consumes is also the one that this byte's key selects (R92, R93). -/
theorem byteKey_selects_of_exec {i : Instr} {s t : State} {b : Byte} (hb : i.operand = some b)
    (h : exec i s = .next t) : decodeKey (byteKey s b) b = .ok i ∧ exec i s = .next t := by
  obtain ⟨hv, hop⟩ := byteOp_of_exec hb h
  exact ⟨hop ▸ decode_byteKey hv b, h⟩

/-! ### The predicates of the second length byte -/

section
variable {s : State} {b : Byte}

theorem lenOk_eq_false_iff : lenOk s b = false ↔ (dlen s b).toNat ≠ s.params.expLen := by
  rw [← Bool.not_eq_true, lenOk_iff]

/-- The two ways of not draining (R123): no draining at all, and nothing to drain. -/
theorem doDrain_eq_false_iff :
    doDrain s b = false ↔ s.params.drainEn = false ∨ min (dlen s b).toNat s.params.drainCap = 0 := by
  rw [← Bool.not_eq_true, doDrain_iff, not_and_or, Bool.not_eq_true, ← Nat.lt_min, Nat.not_lt, Nat.le_zero]

end

/-! ### The length field -/

/-- Settles O4: the clause of LEN_B0 is the control state alone. -/
theorem lenB0KeepsTheFirstLengthByte : Obligations.LenB0KeepsTheFirstLengthByte := by
  intro s b hs
  exact byteKey_selects_of_exec rfl (exec_lenB0_next.mpr ⟨hs, rfl⟩)

/-- Settles O5: the stored `dlen` is the two length bytes in the order of R82. -/
theorem lenB1OkEntersTheBody : Obligations.LenB1OkEntersTheBody := by
  intro s b hs hlen
  have hok : lenOk s b = true := lenOk_iff.mpr hlen
  exact byteKey_selects_of_exec rfl (exec_lenB1Ok_next.mpr ⟨hs, hok, rfl⟩)

/-- Settles O6: the next state written out is that of `raise HeaderMismatch` (R195). -/
theorem lenB1BadRaisesHeaderMismatch : Obligations.LenB1BadRaisesHeaderMismatch := by
  intro s b hs hlen hnone
  have hbad : lenOk s b = false := lenOk_eq_false_iff.mpr hlen
  have hstay : doDrain s b = false := doDrain_eq_false_iff.mpr hnone
  exact byteKey_selects_of_exec rfl (exec_lenB1Bad_next.mpr ⟨hs, hbad, hstay, rfl⟩)

/-- Settles O7: the count of the drain is `drain_n` (R127), and only the report half of `raise` is taken. -/
theorem lenB1DrainReportsAndDrains : Obligations.LenB1DrainReportsAndDrains := by
  intro s b hs hlen hen hcount
  have hbad : lenOk s b = false := lenOk_eq_false_iff.mpr hlen
  have hdrain : doDrain s b = true := doDrain_iff.mpr ⟨hen, Nat.lt_min.mp hcount⟩
  exact byteKey_selects_of_exec rfl (exec_lenB1Drain_next.mpr ⟨hs, hbad, hdrain, rfl⟩)

/-! ### The drain -/

/-- Settles O8: the byte's value is not looked at, only the count. -/
theorem drainByteCountsDown : Obligations.DrainByteCountsDown := by
  intro s b hs hcount
  exact byteKey_selects_of_exec rfl (exec_drainByte_next.mpr ⟨hs, hcount, rfl⟩)

/-- Settles O9: the next state written out is that of `enter_hunting()` (R39), which reports nothing. -/
theorem drainLastReturnsToHunting : Obligations.DrainLastReturnsToHunting := by
  intro s b hs hcount
  have hlast : lastDrain s = true := lastDrain_iff.mpr hcount
  exact byteKey_selects_of_exec rfl (exec_drainLast_next.mpr ⟨hs, hlast, rfl⟩)

end Sys2Proof.Machine

/-! ## Proofs: FrameBodyCollector (42_framebodycollector.md)

The checksum operations (R136, R137), the laws of the XOR-fold (R138), a frame whose stream stops (R132), and a packet with a
changed payload byte followed from its first marker byte to its checksum byte (R131, R135, R137). -/

namespace Sys2Proof.Machine

/-! ### The checksum byte -/

theorem ckOk_eq_false_iff {s : State} {b : Byte} : ckOk s b = false ↔ b ≠ s.xorAcc := by
  rw [← Bool.not_eq_true, ne_eq, ckOk_iff]

theorem exec_csumBad_of_ne {s : State} (hs : s.state = .checksumPending) {b : Byte} (hb : b ≠ s.xorAcc) :
    exec (.csumBad b) s = .next (raiseFailure .checksumMismatch s) :=
  exec_csumBad_next.mpr ⟨hs, ckOk_eq_false_iff.mpr hb, rfl⟩

/-- With `CSUM_EN` the completion of a payload byte never accepts: after the last one the checksum byte is awaited (R135). -/
theorem bodyCommon_state_ne_valid {w : Window} {csumEn last : Bool} {s : State} (hen : s.params.csumEn = true)
    (hsel : bodySelected w csumEn last s = true) (b : Byte) (u : State) :
    (bodyCommon csumEn last b u).state ≠ .valid := by
  obtain ⟨-, -, -, rfl, -⟩ := bodySelected_iff.mp hsel
  rw [bodyCommon_state, hen]
  cases last <;> nofun

/-- Settles O13: the next state is that of `accept()`, and of the operations that can accept, the BODY operations do so
without `CSUM_EN` only. -/
theorem csumOkAcceptsTheFrame : Obligations.CsumOkAcceptsTheFrame := by
  refine ⟨fun s b hs hb => byteKey_selects_of_exec rfl (exec_csumOk_next.mpr ⟨hs, ckOk_iff.mpr hb, rfl⟩),
    fun i s t hen h hs ht => ?_⟩
  cases hi : buffering i with
  | false => exact absurd ((exec_keepsBuffers hi h).valid ht) hs
  | true =>
    cases i with
    | csumOk b => exact ⟨b, rfl⟩
    | bodySkip c l b =>
      obtain ⟨hsel, rfl⟩ := exec_bodySkip_next.mp h
      exact absurd ht (bodyCommon_state_ne_valid hen hsel b _)
    | bodyTake c l b =>
      obtain ⟨hsel, rfl⟩ := exec_bodyTake_next.mp h
      exact absurd ht (bodyCommon_state_ne_valid hen hsel b _)
    | bodyDrop c l b =>
      obtain ⟨hsel, rfl⟩ := exec_bodyDrop_next.mp h
      exact absurd ht (bodyCommon_state_ne_valid hen hsel b _)
    | _ => cases hi

/-- Settles O14: the next state written out is that of `raise ChecksumMismatch` (R195), which writes no buffer. -/
theorem csumBadRaisesChecksumMismatch : Obligations.CsumBadRaisesChecksumMismatch := by
  intro s b hs hb
  exact byteKey_selects_of_exec rfl (exec_csumBad_of_ne hs hb)

/-! ### The XOR-fold -/

/-- Changing one byte of a range by `e` changes the fold by `e` (R138). -/
theorem xorFold_change (xs ys : List Byte) (x e : Byte) :
    xorFold (xs ++ (x ^^^ e) :: ys) = xorFold (xs ++ x :: ys) ^^^ e := by
  simp only [xorFold_append, xorFold_cons]
  ac_rfl

/-- Settles O48: two changes by `e` change the fold by `e ^^^ e`, which is 0. -/
theorem xorFoldSeesEverySingleChange : Obligations.XorFoldSeesEverySingleChange := by
  intro xs ys zs x y e
  refine ⟨xorFold_change xs ys x e, ?_, ?_⟩
  · calc xorFold (xs ++ (x ^^^ e) :: ys ++ (y ^^^ e) :: zs)
        = xorFold (xs ++ (x ^^^ e) :: (ys ++ y :: zs)) ^^^ e := by
          rw [xorFold_change, List.append_assoc, List.cons_append]
      _ = xorFold (xs ++ x :: ys ++ y :: zs) ^^^ e ^^^ e := by
          rw [xorFold_change, List.append_assoc, List.cons_append]
      _ = xorFold (xs ++ x :: ys ++ y :: zs) := by
          rw [BitVec.xor_assoc, BitVec.xor_self, BitVec.xor_zero]
  · rw [xorFold_append, xorFold_append, BitVec.xor_comm]

/-! ### A stream that stops

A tick in a timed state either counts the byte timer up or raises a failure, and in HUNTING it does nothing. -/

/-- Under ticks alone the engine is back in HUNTING after `n` of them: it is there already, or the byte timer lacks at most
`n` ticks. -/
def AbandonedWithin (n : Nat) (s : State) : Prop :=
  s.state = .hunting ∨ (timed s = true ∧ s.params.byteTimeout ≤ s.byteTimer.toNat + n)

/-- A byte timer that lacks no tick has expired before (R40). -/
theorem AbandonedWithin.hunting {s : State} (h : AbandonedWithin 0 s) (hinv : s.inv = true) : s.state = .hunting := by
  obtain ⟨-, -, htm, -⟩ := inv_iff.mp hinv
  obtain ⟨hlt, -⟩ := timerInv_iff.mp htm
  exact h.resolve_right fun ⟨_, hle⟩ => by omega

theorem AbandonedWithin.tick {n : Nat} {s t : State} (h : AbandonedWithin (n + 1) s) (hinv : s.inv = true)
    (ht : exec (tickOp s) s = .next t) : AbandonedWithin n t ∧ t.seg = s.seg := by
  obtain ⟨hidle, rfl⟩ | ⟨-, -, rfl⟩ | ⟨-, -, -, rfl⟩ | ⟨htimed, -, -, rfl⟩ := tickOp_cases ht
  · exact ⟨.inl (h.resolve_right fun ⟨htimed, _⟩ => by simp [hidle] at htimed), rfl⟩
  · exact ⟨.inl rfl, rfl⟩
  · exact ⟨.inl rfl, rfl⟩
  · obtain ⟨hl, -, htm, -⟩ := inv_iff.mp hinv
    obtain ⟨-, -, -, -, hmax, -⟩ := Params.legal_iff.mp hl
    obtain ⟨hlt, -⟩ := timerInv_iff.mp htm
    obtain ⟨-, hlack⟩ := h.resolve_left (timed_iff.mp htimed).1
    refine ⟨.inr ⟨htimed, ?_⟩, rfl⟩
    show s.params.byteTimeout ≤ (s.byteTimer + 1).toNat + n
    rw [half_succ (by omega)]
    omega

/-- By induction on the ticks. -/
theorem AbandonedWithin.run_ticks {n : Nat} {s : State} (h : AbandonedWithin n s) (hinv : s.inv = true) :
    ∃ t, runInputs (List.replicate n PortInputs.tickOnly) s = .next t ∧ t.state = .hunting ∧ t.seg = s.seg := by
  induction n generalizing s with
  | zero => exact ⟨s, rfl, h.hunting hinv, rfl⟩
  | succ n ih =>
    have hinv' := inv_atEdge hinv
    obtain ⟨u, hu⟩ := tick_runs (atEdge s)
    obtain ⟨hleft, hseg⟩ := AbandonedWithin.tick (s := atEdge s) h hinv' hu
    obtain ⟨t, hrun, hstate, hseg'⟩ := ih hleft (inv_tickOp hinv' hu)
    rw [List.replicate_succ, runInputs_of_cycle (inv_iff.mp hinv).1 ((cycle_tickOnly _).trans hu)]
    exact ⟨t, hrun, hstate, hseg'.trans hseg⟩

/-- Settles O53: the hypothesis says what the byte timer lacks. -/
theorem truncatedFrameIsAbandoned : Obligations.TruncatedFrameIsAbandoned := by
  intro s n hinv htimed hlack
  exact AbandonedWithin.run_ticks (.inr ⟨htimed, hlack⟩) hinv

/-! ### A packet of consecutive bytes, from the marker to the checksum byte -/

theorem inv_runInputs {ins : List PortInputs} {s t : State} (hinv : s.inv = true) (h : runInputs ins s = .next t) :
    t.inv = true := by
  induction ins generalizing s with
  | nil => cases h; exact hinv
  | cons inp ins ih =>
    obtain ⟨u, hu, hrest⟩ := thenDo_next.mp (runInputs_cons (inv_iff.mp hinv).1 inp ins ▸ h)
    exact ih (inv_cycle (inv_atEdge hinv) hu) hrest

theorem offerAll_append (xs ys : List Byte) : offerAll (xs ++ ys) = offerAll xs ++ offerAll ys := List.map_append

section
variable {s : State} {b : Byte}

theorem runInputs_offer_huntSync (hl : s.params.legal = true) (hs : s.state = .hunting) (hh : hit s b = true) :
    runInputs [.offer b] s =
      .next { atEdge s with state := .synced, prevValid := false, prev := 0x00, xorAcc := 0x00, byteTimer := 0 } := by
  apply runInputs_offer hl (ne_valid_of_hunting hs)
  rw [byteOp_of_hit hs hh]
  exact exec_huntSync_next.mpr ⟨hs, hh, rfl⟩

theorem runInputs_offer_lenB0 (hl : s.params.legal = true) (hs : s.state = .synced) :
    runInputs [.offer b] s =
      .next { atEdge s with lenB0 := b, xorAcc := s.xorAcc ^^^ b, byteTimer := 0, state := .lenPending } := by
  apply runInputs_offer hl (by simp [hs])
  simp only [byteOp, hs]
  exact exec_lenB0_next.mpr ⟨hs, rfl⟩

theorem runInputs_offer_lenB1Ok (hl : s.params.legal = true) (hs : s.state = .lenPending) (hok : lenOk s b = true) :
    runInputs [.offer b] s =
      .next { atEdge s with
        len := dlen s b, xorAcc := s.xorAcc ^^^ b, byteTimer := 0, pos := 0, state := .bodyPending } := by
  apply runInputs_offer hl (by simp [hs])
  simp only [byteOp, hs, hok, if_true]
  exact exec_lenB1Ok_next.mpr ⟨hs, hok, rfl⟩

theorem runInputs_offer_csumBad (hl : s.params.legal = true) (hs : s.state = .checksumPending) (hb : b ≠ s.xorAcc) :
    runInputs [.offer b] s = .next (raiseFailure .checksumMismatch (atEdge s)) := by
  apply runInputs_offer hl (by simp [hs])
  simp only [byteOp, hs, ckOk_eq_false_iff.mpr hb, Bool.false_eq_true, if_false]
  exact exec_csumBad_of_ne (s := atEdge s) hs hb

end

/-- The marker pair synchronises a fresh hunt (R111, R112). -/
theorem runInputs_mark {s : State} (hinv : s.inv = true) (hs : s.state = .hunting) (hp : s.prevValid = false) :
    ∃ t, runInputs (offerAll s.params.mark) s = .next t ∧ t.state = .synced ∧ t.params = s.params ∧ t.seg = s.seg := by
  have hl := (inv_iff.mp hinv).1
  have hfirst := runInputs_offer_of_not_hit (b := s.params.marker1) hl hs (by simp [hit, hp])
  have hsecond := runInputs_offer_huntSync (s := { atEdge s with prev := s.params.marker1, prevValid := true })
    (b := s.params.marker2) hl hs (hit_iff.mpr ⟨rfl, rfl, rfl⟩)
  exact ⟨_, (runInputs_of_run hfirst _).trans hsecond, rfl, rfl, rfl⟩

/-- An engine with parameters `p` and segment `g` has taken `n` payload bytes of a frame, and `fold` is the fold so far. With
checksum it then awaits the next payload byte, or after the last one the checksum byte (R135). -/
structure Collecting (p : Params) (g : Memory) (n : Nat) (fold : Byte) (t : State) : Prop where
  inv : t.inv = true
  params : t.params = p
  seg : t.seg = g
  state : t.state = if n = p.expLen then .checksumPending else .bodyPending
  pos : t.pos.toNat = n
  xorAcc : t.xorAcc = fold

/-- The right length field leads into the body with its own fold in `xor_acc` (R121, R122). -/
theorem runInputs_lenBytes {s : State} (hinv : s.inv = true) (hs : s.state = .synced) :
    ∃ t, runInputs (offerAll (s.params.lenBytes s.params.expLen)) s = .next t ∧
      Collecting s.params s.seg 0 (xorFold (s.params.lenBytes s.params.expLen)) t := by
  obtain ⟨hl, hc, -⟩ := inv_iff.mp hinv
  obtain ⟨-, htotal, -⟩ := Params.legal_iff.mp hl
  obtain ⟨hxor, -⟩ := (controlInv_synced hs).mp hc
  obtain ⟨b0, b1, hlen⟩ := lenBytes_two s.params s.params.expLen
  have hfirst := runInputs_offer_lenB0 (b := b0) hl hs
  have hvalue := assembleLen_lenBytes (by have := expLen_le hl; omega) hlen
  have hsecond := runInputs_offer_lenB1Ok
    (s := { atEdge s with lenB0 := b0, xorAcc := s.xorAcc ^^^ b0, byteTimer := 0, state := .lenPending })
    hl rfl (lenOk_iff.mpr hvalue)
  have hrun := (runInputs_of_run hfirst _).trans hsecond
  have hexp : 0 ≠ s.params.expLen := by unfold Params.expLen; omega
  have hfold : s.xorAcc ^^^ b0 ^^^ b1 = xorFold [b0, b1] := by simp [hxor, xorFold_cons, xorFold_nil]
  rw [hlen]
  exact ⟨_, hrun, inv_runInputs hinv hrun, rfl, rfl, (if_neg hexp).symm, rfl, hfold⟩

/-- What SegmentExtractor does with a payload byte: a byte inside the window is staged (R150 to R152). -/
def stageByte (b : Byte) (s : State) : State := if win s = .take then stageWrite (stageAddress s) b s else s

/-- The three BODY operations as one: the extractor's part, then the collector's. -/
theorem exec_byteOp_bodyPending {s : State} (hs : s.state = .bodyPending) (hpos : s.pos.toNat < s.params.expLen) (b : Byte) :
    exec (byteOp s b) s = .next (bodyCommon s.params.csumEn (lastBody s) b (stageByte b s)) := by
  have hsel : bodySelected (win s) s.params.csumEn (lastBody s) s = true :=
    bodySelected_iff.mpr ⟨hs, hpos, rfl, rfl, rfl⟩
  unfold byteOp stageByte
  rw [hs]
  cases hw : win s <;> rw [hw] at hsel
  · exact exec_bodySkip_next.mpr ⟨hsel, rfl⟩
  · exact exec_bodyTake_next.mpr ⟨hsel, rfl⟩
  · exact exec_bodyDrop_next.mpr ⟨hsel, rfl⟩

/-- With checksum the collector's part of a payload byte counts and folds it, whatever the extractor did with it. -/
theorem bodyCommon_stageByte_of_csumEn {csumEn : Bool} (hen : csumEn = true) (last : Bool) (b : Byte) (s : State) :
    ∃ m, bodyCommon csumEn last b (stageByte b s) =
      { bodyCount b s with state := if last then .checksumPending else .bodyPending, stage := m } := by
  subst hen
  unfold stageByte
  cases last <;> split <;> exact ⟨_, rfl⟩

section
variable {p : Params} {g : Memory} (hen : p.csumEn = true)
include hen

theorem Collecting.offer {n : Nat} {fold : Byte} {t : State} (h : Collecting p g n fold t) (hn : n < p.expLen)
    (b : Byte) : ∃ u, runInputs [.offer b] t = .next u ∧ Collecting p g (n + 1) (fold ^^^ b) u := by
  obtain ⟨hinv, rfl, rfl, hs, rfl, rfl⟩ := h
  rw [if_neg (by omega)] at hs
  have hl := (inv_iff.mp hinv).1
  have hexec := exec_byteOp_bodyPending (s := atEdge t) hs hn b
  obtain ⟨m, hm⟩ := bodyCommon_stageByte_of_csumEn (csumEn := t.params.csumEn) hen (lastBody t) b (atEdge t)
  have hrun := runInputs_offer hl (by simp [hs]) (hexec.trans (congrArg Host.Outcome.next hm))
  refine ⟨_, hrun, inv_runInputs hinv hrun, rfl, rfl, ?_, bodyCount_pos_toNat (s := t) hl hn b, rfl⟩
  exact if_congr lastBody_iff rfl rfl

/-- By induction on the payload bytes. -/
theorem Collecting.offer_bytes {n : Nat} {fold : Byte} {t : State} (h : Collecting p g n fold t) (bytes : List Byte)
    (hn : n + bytes.length ≤ p.expLen) :
    ∃ u, runInputs (offerAll bytes) t = .next u ∧ Collecting p g (n + bytes.length) (fold ^^^ xorFold bytes) u := by
  induction bytes generalizing n fold t with
  | nil => exact ⟨t, rfl, by simpa [xorFold_nil] using h⟩
  | cons b bytes ih =>
    rw [List.length_cons] at hn ⊢
    obtain ⟨u, hrun, hu⟩ := h.offer hen (by omega) b
    obtain ⟨v, hrest, hv⟩ := ih hu (by omega)
    refine ⟨v, (runInputs_of_run hrun _).trans hrest, ?_⟩
    rw [xorFold_cons, ← BitVec.xor_assoc, Nat.add_comm bytes.length, ← Nat.add_assoc]
    exact hv

end

/-- A wrong checksum byte is a ChecksumMismatch (R137). -/
theorem Collecting.offer_wrong_checksum {p : Params} {g : Memory} {fold : Byte} {t : State}
    (h : Collecting p g p.expLen fold t) {ck : Byte} (hck : ck ≠ fold) :
    ∃ u, runInputs [.offer ck] t = .next u ∧ u.state = .hunting ∧ u.errValid = true ∧ u.errCode = 3 ∧ u.seg = g := by
  obtain ⟨hinv, rfl, rfl, hs, -, rfl⟩ := h
  rw [if_pos rfl] at hs
  exact ⟨_, runInputs_offer_csumBad (inv_iff.mp hinv).1 hs hck, rfl, rfl, rfl, rfl⟩

/-- A packet to a fresh hunt with checksum whose checksum byte is not the payload's ends in ChecksumMismatch. -/
theorem runInputs_frameWith_wrong_checksum {s : State} {payload : List Byte} {ck : Byte} (hinv : s.inv = true)
    (hs : s.state = .hunting) (hp : s.prevValid = false) (hen : s.params.csumEn = true)
    (hlen : payload.length = s.params.expLen) (hck : ck ≠ s.params.checksum payload) :
    ∃ t, runInputs (offerAll (s.params.frameWith payload ck)) s = .next t ∧
      t.state = .hunting ∧ t.errValid = true ∧ t.errCode = 3 ∧ t.seg = s.seg := by
  obtain ⟨t, hmark, ht, htpar, htseg⟩ := runInputs_mark hinv hs hp
  obtain ⟨u, hfield, hu⟩ := runInputs_lenBytes (inv_runInputs hinv hmark) ht
  rw [htpar] at hfield hu
  rw [htseg] at hu
  obtain ⟨v, hbody, hv⟩ := hu.offer_bytes hen payload (by omega)
  rw [Nat.zero_add, hlen, ← xorFold_append] at hv
  obtain ⟨w, hlast, hw⟩ := hv.offer_wrong_checksum hck
  refine ⟨w, ?_, hw⟩
  rw [Params.frameWith, if_pos hen, List.append_assoc, List.append_assoc, offerAll_append, offerAll_append, offerAll_append,
    runInputs_of_run hmark, runInputs_of_run hfield, runInputs_of_run hbody]
  exact hlast

/-- Settles O56: the change by `e` is a change of the checksum by `e`, so the byte sent is not the fold received. -/
theorem corruptedPayloadByteIsRejected : Obligations.CorruptedPayloadByteIsRejected := by
  intro s before after d e hinv hs hp hen hlen he
  refine runInputs_frameWith_wrong_checksum hinv hs hp hen (by simpa using hlen) ?_
  have hfold : s.params.checksum (before ++ (d ^^^ e) :: after) = s.params.checksum (before ++ d :: after) ^^^ e := by
    simp only [Params.checksum, ← List.append_assoc]
    exact xorFold_change ..
  rw [hfold]
  intro heq
  exact he (by simpa using heq.symm)

end Sys2Proof.Machine

/-! ## Proofs: SegmentExtractor (43_segmentextractor.md)

The window mask (R150 to R152), the handshake with OutputSink (R154, R155), what a step may do to `seg` (R161), and a good
packet followed from a fresh hunt to VALID, where `seg` is the window of its payload whatever the buffers held before
(R156, R160), so that the segments of a tiling make up the payload (R157). -/

namespace Sys2Proof.Machine

/-! ### The window mask -/

/-- The collector's part of a payload byte as the rules state it: counted, then checksum byte awaited or frame accepted
after the last byte (R131, R135). -/
theorem bodyCommon_eq_ite {s : State} (hs : s.state = .bodyPending) (hpos : s.pos.toNat < s.params.expLen) (b : Byte) :
    bodyCommon s.params.csumEn (lastBody s) b s =
      if s.pos.toNat + 1 < s.params.expLen then bodyCount b s
      else if s.params.csumEn then { bodyCount b s with state := .checksumPending }
      else accept s := by
  unfold bodyCommon
  obtain ⟨hlast, he⟩ | ⟨hlast, hen, he⟩ | ⟨hlast, hen, he⟩ :=
    bodyComplete_cases s.params.csumEn (lastBody s) (bodyCount b s)
  · have hne : s.pos.toNat + 1 ≠ s.params.expLen := by simpa [lastBody] using hlast
    rw [he, if_pos (by omega), ← hs]
    rfl
  · have hend := lastBody_iff.mp hlast
    rw [he, if_neg (by omega), if_pos hen]
  · have hend := lastBody_iff.mp hlast
    rw [he, if_neg (by omega), if_neg (by simp [hen]), accept_bodyCount]

/-- The key fields of a payload byte are those that the operation of its window phase requires (R92). -/
theorem bodySelected_of_win {w : Window} {s : State} (hs : s.state = .bodyPending)
    (hpos : s.pos.toNat < s.params.expLen) (hw : win s = w) :
    bodySelected w s.params.csumEn (lastBody s) s = true :=
  bodySelected_iff.mpr ⟨hs, hpos, hw, rfl, rfl⟩

/-- Settles O10: before the window BODY_SKIP is selected, and it does the collector's part alone. -/
theorem bodySkipFoldsAndCounts : Obligations.BodySkipFoldsAndCounts := by
  intro s b hs hpos hlo
  have hsel := bodySelected_of_win hs hpos (windowAt_skip.mpr hlo)
  exact byteKey_selects_of_exec rfl (exec_bodySkip_next.mpr ⟨hsel, (bodyCommon_eq_ite hs hpos b).symm⟩)

/-- Settles O11: inside the window BODY_TAKE is selected, and the collector's part runs on the state with the byte staged. -/
theorem bodyTakeStagesTheByte : Obligations.BodyTakeStagesTheByte := by
  intro s b hs hpos hlo hhi
  have hsel := bodySelected_of_win hs hpos (windowAt_take.mpr ⟨hlo, hhi⟩)
  have hcommon := bodyCommon_eq_ite (s := stageWrite (stageAddress s) b s) hs hpos b
  exact byteKey_selects_of_exec rfl (exec_bodyTake_next.mpr ⟨hsel, hcommon.symm⟩)

/-- Settles O12: after the window BODY_DROP is selected, and it does the collector's part alone. -/
theorem bodyDropFoldsAndCounts : Obligations.BodyDropFoldsAndCounts := by
  intro s b hs hpos hhi
  have hsel := bodySelected_of_win hs hpos (windowAt_drop.mpr hhi)
  exact byteKey_selects_of_exec rfl (exec_bodyDrop_next.mpr ⟨hsel, (bodyCommon_eq_ite hs hpos b).symm⟩)

/-! ### The handshake with OutputSink -/

/-- Settles O19: the key field is set, and the next state written out is that of `enter_hunting()` (R39). -/
theorem sinkDoneEndsTheReceiveCycle : Obligations.SinkDoneEndsTheReceiveCycle := by
  intro start s b hstart hs
  exact ⟨decode_sinkKey_sinkDone_iff.mpr hstart, exec_sinkDone_next.mpr ⟨hs, rfl⟩⟩

/-- Settles O20: the key field is clear, whatever the state at the event is (log 12). -/
theorem sinkIgnChangesNothing : Obligations.SinkIgnChangesNothing := by
  intro start s b hstart
  exact ⟨decode_sinkKey_sinkIgn_iff.mpr hstart, exec_sinkIgn_next.mpr rfl⟩

/-! ### What a step does to `seg` -/

theorem buffering_tickOp (s : State) : buffering (tickOp s) = false := by
  unfold tickOp
  cases timed s <;> cases fto s <;> cases bto s <;> rfl

/-- The TICK event of a clock cycle, present or not, touches no buffer. -/
theorem tickEvent_seg {c : Prop} [Decidable c] {s t : State} (h : if c then exec (tickOp s) s = .next t else t = s) :
    t.seg = s.seg := by
  split at h
  · exact (exec_keepsBuffers (buffering_tickOp s) h).seg
  · rw [h]

/-- `seg` is written in a clock cycle only by the BYTE event of a cycle that begins outside VALID, and then no SINK event
follows (R71, R176). -/
theorem cycle_seg_cases {inp : PortInputs} {s t : State} (h : cycle inp s = .next t) :
    t.seg = s.seg ∨ (s.state ≠ .valid ∧ t.state = .valid ∧ t.seg = t.stage) := by
  obtain ⟨-, rfl⟩ | ⟨-, s1, s2, htick, hbyte, hsink⟩ := cycle_next.mp h
  · exact .inl rfl
  have hseg1 := tickEvent_seg htick
  by_cases hv : s.state = .valid
  · obtain rfl : s2 = s1 := by simpa [hv] using hbyte
    split at hsink
    · obtain ⟨-, rfl⟩ := exec_sinkDone_next.mp hsink
      exact .inl hseg1
    · exact .inl (hsink ▸ hseg1)
  · obtain rfl : t = s2 := by simpa [hv] using hsink
    split at hbyte
    · obtain ⟨-, hkept | ⟨-, hvalid, hcopied⟩⟩ := buffersAreWrittenOnlyByTakeAndAccept _ _ _ hbyte
      · exact .inl (hkept.trans hseg1)
      · exact .inr ⟨hv, hvalid, hcopied⟩
    · exact .inl (hbyte ▸ hseg1)

/-- Settles O32: the clock edge touches no buffer, and a step that reports ends in HUNTING or DRAINING. -/
theorem lastGoodSegmentIsKept : Obligations.LastGoodSegmentIsKept := by
  intro s t h
  refine (cycle_seg_cases (s := edge s) (step_next.mp h).2).imp_right fun ⟨hs, hvalid, hcopied⟩ => ?_
  obtain ⟨-, hreport, -⟩ := reportsArePulses s t h
  refine ⟨hs, hvalid, hcopied, Bool.eq_false_iff.mpr fun he => ?_⟩
  simpa [hvalid] using hreport he

/-! ### A good packet, from the marker to VALID -/

/-- A receiver with parameters `p` has taken the payload bytes `bytes`: they are counted, folded after the length field
(R84), and those inside the window staged (R75). -/
structure Taken (p : Params) (bytes : List Byte) (s : State) : Prop where
  params : s.params = p
  pos : s.pos.toNat = bytes.length
  xorAcc : s.xorAcc = p.checksum bytes
  staged : ∀ a, a < stagedCount s → Memory.read? a s.stage = bytes[p.winLo + a]?

/-- A receiver with parameters `p` is in VALID and shows the window of `payload` (R156). -/
structure Showing (p : Params) (payload : List Byte) (s : State) : Prop where
  inv : s.inv = true
  params : s.params = p
  state : s.state = .valid
  seg : ∀ a, a < p.segBytes → Memory.read? a s.seg = payload[p.winLo + a]?

theorem checksum_concat (p : Params) (bytes : List Byte) (b : Byte) :
    p.checksum (bytes ++ [b]) = p.checksum bytes ^^^ b := by
  simp [Params.checksum, xorFold_append, xorFold_cons, xorFold_nil, BitVec.xor_assoc]

section
variable {p : Params} {bytes : List Byte} {s : State}

/-- The control state is the collector's bookkeeping, not part of what is taken. -/
theorem Taken.withState (h : Taken p bytes s) (c : Control) : Taken p bytes { s with state := c } :=
  ⟨h.params, h.pos, h.xorAcc, h.staged⟩

theorem Taken.atEdge (h : Taken p bytes s) : Taken p bytes (atEdge s) := ⟨h.params, h.pos, h.xorAcc, h.staged⟩

/-- What was staged before stands in front of the byte `b` that follows. -/
theorem Taken.staged_concat (h : Taken p bytes s) (b : Byte) {a : Nat} (ha : a < stagedCount s) :
    Memory.read? a s.stage = (bytes ++ [b])[p.winLo + a]? := by
  obtain ⟨rfl, hpos, -, hstaged⟩ := h
  have hlt : s.params.winLo + a < bytes.length := by unfold stagedCount at ha; omega
  rw [hstaged a ha, List.getElem?_append_left hlt]

/-- The staging address of the next byte is its place in the window (R69). -/
theorem Taken.winLo_add_stageAddress (h : Taken p bytes s) (hw : win s = .take) :
    p.winLo + stageAddress s = bytes.length := by
  obtain ⟨rfl, hpos, -, -⟩ := h
  obtain ⟨hlo, -⟩ := windowAt_take.mp hw
  unfold stageAddress
  omega

/-- One more payload byte, staged if it lies inside the window, then counted and folded (R131, R150 to R152). -/
theorem Taken.stage_count (h : Taken p bytes s) (hl : p.legal = true) (hn : bytes.length < p.expLen) (b : Byte) :
    Taken p (bytes ++ [b]) (bodyCount b (stageByte b s)) := by
  have hold {a : Nat} := h.staged_concat b (a := a)
  have hplace := h.winLo_add_stageAddress
  obtain ⟨rfl, hpos, hxor, -⟩ := h
  rw [← hpos] at hn
  have hsucc : (s.pos + 1).toNat = (bytes ++ [b]).length := by
    rw [List.length_append, ← hpos]; exact bodyCount_pos_toNat hl hn b
  have hfold : s.xorAcc ^^^ b = s.params.checksum (bytes ++ [b]) := by rw [checksum_concat, hxor]
  unfold stageByte
  split
  next hw =>
    refine ⟨rfl, hsucc, hfold, fun a ha => ?_⟩
    have hcount : stagedCount (bodyCount b (stageWrite (stageAddress s) b s)) = stageAddress s + 1 :=
      stagedCount_bodyCount_of_take (s := stageWrite (stageAddress s) b s) hl hn hw b
    rw [bodyCount_stage, stageWrite_stage, Memory.read?_write]
    split
    next hnew => rw [hnew, hplace hw, List.getElem?_concat_length]
    next hne => exact hold (by rw [stagedCount_of_take hw]; omega)
  next hw =>
    refine ⟨rfl, hsucc, hfold, fun a ha => ?_⟩
    rw [stagedCount_bodyCount_of_ne_take hl hn hw] at ha
    exact hold ha

/-- `accept()` at the end of the payload copies the whole window (R153). -/
theorem Taken.seg_accept (h : Taken p bytes s) (hl : p.legal = true) (hn : bytes.length = p.expLen) (a : Nat)
    (ha : a < p.segBytes) : Memory.read? a (accept s).seg = bytes[p.winLo + a]? := by
  obtain ⟨rfl, hpos, -, hstaged⟩ := h
  exact hstaged a (by rwa [stagedCount_of_end hl (hpos.trans hn)])

end

/-- A payload byte in BODY_PENDING: the extractor's part, then the collector's. -/
theorem runInputs_offer_bodyPending {s : State} (hl : s.params.legal = true) (hs : s.state = .bodyPending)
    (hpos : s.pos.toNat < s.params.expLen) (b : Byte) :
    runInputs [.offer b] s =
      .next (bodyComplete s.params.csumEn (lastBody s) (bodyCount b (stageByte b (atEdge s)))) :=
  runInputs_offer hl (by simp [hs]) (exec_byteOp_bodyPending (s := atEdge s) hs hpos b)

/-- The checksum byte that equals the fold accepts the frame (R136). -/
theorem runInputs_offer_csumOk {s : State} {b : Byte} (hl : s.params.legal = true) (hs : s.state = .checksumPending)
    (hb : b = s.xorAcc) : runInputs [.offer b] s = .next (accept (atEdge s)) := by
  apply runInputs_offer hl (by simp [hs])
  simp only [byteOp, hs, ckOk_iff.mpr hb, if_true]
  exact exec_csumOk_next.mpr ⟨hs, ckOk_iff.mpr hb, rfl⟩

section
variable {p : Params} {s : State} (hl : p.legal = true) (hs : s.state = .bodyPending)
include hl hs

/-- A payload byte that is not the last is taken, and the receiver stays in the body (R135). -/
theorem Taken.offer {bytes : List Byte} (h : Taken p bytes s) (b : Byte) (hn : bytes.length + 1 < p.expLen) :
    ∃ t, runInputs [.offer b] s = .next t ∧ t.state = .bodyPending ∧ Taken p (bytes ++ [b]) t := by
  have hnext := h.atEdge.stage_count hl (by omega) b
  obtain ⟨rfl, hpos, -, -⟩ := h
  have hstay : lastBody s = false := by rw [← Bool.not_eq_true, lastBody_iff]; omega
  have hrun := runInputs_offer_bodyPending hl hs (by omega) b
  rw [hstay] at hrun
  exact ⟨_, hrun, rfl, hnext.withState .bodyPending⟩

/-- By induction on the payload bytes before the last one. -/
theorem Taken.offer_bytes (h : Taken p [] s) (bytes : List Byte) (hn : bytes.length < p.expLen) :
    ∃ t, runInputs (offerAll bytes) s = .next t ∧ t.state = .bodyPending ∧ Taken p bytes t := by
  induction bytes using List.reverseRecOn with
  | nil => exact ⟨s, rfl, hs, h⟩
  | append_singleton bytes b ih =>
    rw [List.length_append, List.length_singleton] at hn
    obtain ⟨t, hrun, ht, htaken⟩ := ih (by omega)
    rw [offerAll_concat, runInputs_of_run hrun]
    exact htaken.offer hl ht b hn

/-- The last payload byte and, with checksum, the right checksum byte end in VALID (R135, R136). -/
theorem Taken.offer_end {bytes : List Byte} (h : Taken p bytes s) (b : Byte) (hn : bytes.length + 1 = p.expLen) :
    ∃ t, runInputs (.offer b :: offerAll (if p.csumEn then [p.checksum (bytes ++ [b])] else [])) s = .next t ∧
      t.params = p ∧ t.state = .valid ∧
      ∀ a, a < p.segBytes → Memory.read? a t.seg = (bytes ++ [b])[p.winLo + a]? := by
  have hnext := h.atEdge.stage_count hl (by omega) b
  have hlen : (bytes ++ [b]).length = p.expLen := by simpa using hn
  obtain ⟨rfl, hpos, -, -⟩ := h
  have hlast : lastBody s = true := lastBody_iff.mpr (by omega)
  have hrun := runInputs_offer_bodyPending hl hs (by omega) b
  rw [hlast] at hrun
  rw [← List.singleton_append, runInputs_of_run hrun]
  cases hen : s.params.csumEn
  · exact ⟨_, rfl, hnext.params, rfl, hnext.seg_accept hl hlen⟩
  · have hwait := hnext.withState .checksumPending
    have hck := runInputs_offer_csumOk (hwait.params ▸ hl) rfl hwait.xorAcc.symm
    exact ⟨_, hck, hwait.params, rfl, hwait.atEdge.seg_accept hl hlen⟩

end

/-- Right after the length field no payload byte is taken. -/
theorem Collecting.taken {p : Params} {g : Memory} {s : State}
    (h : Collecting p g 0 (xorFold (p.lenBytes p.expLen)) s) : Taken p [] s := by
  refine ⟨h.params, h.pos, by simpa [Params.checksum] using h.xorAcc, fun a ha => ?_⟩
  simp [stagedCount, h.pos] at ha

/-- A good packet to a fresh hunt ends in VALID, and `seg` is the window of its payload (R156). -/
theorem runInputs_frame {s : State} {payload : List Byte} (hinv : s.inv = true) (hs : s.state = .hunting)
    (hp : s.prevValid = false) (hlen : payload.length = s.params.expLen) :
    ∃ t, runInputs (offerAll (s.params.frame payload)) s = .next t ∧ Showing s.params payload t := by
  have hl := (inv_iff.mp hinv).1
  obtain ⟨-, htotal, -⟩ := Params.legal_iff.mp hl
  have hexp : s.params.expLen ≠ 0 := by unfold Params.expLen; omega
  obtain ⟨bytes, b, rfl⟩ : ∃ bytes b, payload = bytes ++ [b] :=
    ⟨_, _, (List.dropLast_append_getLast (by rintro rfl; exact hexp hlen.symm)).symm⟩
  rw [List.length_append, List.length_singleton] at hlen
  obtain ⟨t, hmark, ht, htpar, -⟩ := runInputs_mark hinv hs hp
  obtain ⟨u, hfield, hu⟩ := runInputs_lenBytes (inv_runInputs hinv hmark) ht
  rw [htpar] at hfield hu
  have hbody := hu.state
  rw [if_neg hexp.symm] at hbody
  obtain ⟨v, hbytes, hv, htaken⟩ := hu.taken.offer_bytes hl hbody bytes (by omega)
  obtain ⟨w, hend, hwpar, hw, hseg⟩ := htaken.offer_end hl hv b hlen
  have hrun : runInputs (offerAll (s.params.frame (bytes ++ [b]))) s = .next w := by
    simp only [Params.frame, Params.frameWith, offerAll_append, List.append_assoc]
    rw [runInputs_of_run hmark, runInputs_of_run hfield, runInputs_of_run hbytes]
    exact hend
  exact ⟨w, hrun, inv_runInputs hinv hrun, hwpar, hw, hseg⟩

/-! ### What a good packet leaves in `seg` -/

/-- Two receivers that show the same window hold equal data (R160). -/
theorem Showing.seg_eq {p : Params} {payload : List Byte} {s s' : State} (h : Showing p payload s)
    (h' : Showing p payload s') : s'.seg = s.seg := by
  obtain ⟨hinv, rfl, -, hseg⟩ := h
  obtain ⟨hinv', hpar, -, hseg'⟩ := h'
  obtain ⟨-, -, -, -, -, hbuf⟩ := inv_iff.mp hinv
  obtain ⟨-, -, -, -, -, hbuf'⟩ := inv_iff.mp hinv'
  rw [hpar] at hbuf'
  exact eq_of_bufferInv hbuf' hbuf fun a ha => (hseg' a ha).trans (hseg a ha).symm

/-- `sink_done` in VALID opens a fresh hunt (R154). -/
theorem runInputs_sinkOnly {s : State} (hl : s.params.legal = true) (hs : s.state = .valid) :
    runInputs [.sinkOnly] s = .next (enterHunting (atEdge s)) := by
  have hcycle : cycle .sinkOnly (atEdge s) = .next (enterHunting (atEdge s)) := by
    have hkey := (decode_sinkKey_sinkDone_iff (start := atEdge s) (s := atEdge s) (b := 0)).mpr hs
    rw [cycle_of_sink rfl rfl rfl rfl, dispatch_of_decode hkey]
    exact exec_sinkDone_next.mpr ⟨hs, rfl⟩
  exact runInputs_of_cycle hl hcycle []

/-- Settles O58: each of the three runs ends with the window of the payload, the third by a fresh hunt after `sink_done`. -/
theorem acceptedSegmentDependsOnThePayloadOnly : Obligations.AcceptedSegmentDependsOnThePayloadOnly := by
  intro s s' payload hinv hs hp hinv' hs' hp' hpar hlen
  obtain ⟨t, ht, hshow⟩ := runInputs_frame hinv hs hp hlen
  obtain ⟨t', ht', hshow'⟩ := runInputs_frame hinv' hs' hp' (hpar ▸ hlen)
  rw [hpar] at ht' hshow'
  have hsink := runInputs_sinkOnly (hshow.params ▸ (inv_iff.mp hinv).1) hshow.state
  have hagain : (enterHunting (atEdge t)).params = s.params := hshow.params
  obtain ⟨u, hu, hshowu⟩ := runInputs_frame (inv_runInputs hshow.inv hsink) rfl rfl (hagain ▸ hlen)
  rw [hagain] at hu hshowu
  refine ⟨t, t', u, ht, ht', ?_, hshow.state, hshow'.state, hshowu.state, hshow.seg_eq hshow', hshow.seg_eq hshowu⟩
  rw [runInputs_of_run ht, ← List.singleton_append, runInputs_of_run hsink, hu]

/-- The read port shows the window of the payload (R156). -/
theorem Showing.segContents_eq {p : Params} {payload : List Byte} {s : State} (h : Showing p payload s)
    (hlen : payload.length = p.expLen) : segContents s = p.windowOf payload := by
  obtain ⟨hinv, rfl, -, hseg⟩ := h
  have hend := winHi_le_expLen (inv_iff.mp hinv).1
  rw [winHi_eq] at hend
  refine List.ext_getElem (by simp [segContents, Params.windowOf]; omega) fun a ha _ => ?_
  have hlt : a < s.params.segBytes := by simpa [segContents] using ha
  have hread := hseg a hlt
  rw [List.getElem?_eq_getElem (by omega)] at hread
  simp [segContents, Params.windowOf, segByte_of_read hread]

/-! ### A tiling -/

/-- The window of a receiver that begins at pixel `lo`, or of an empty descriptor anywhere, and what follows it (R16). -/
theorem windowOf_append_drop {p : Params} {lo : Nat} (h : p.countPixels = 0 ∨ p.offsetPixels = lo)
    (payload : List Byte) :
    p.windowOf payload ++ payload.drop (3 * (lo + p.countPixels)) = payload.drop (3 * lo) := by
  unfold Params.windowOf Params.winLo Params.segBytes
  obtain hempty | rfl := h
  · simp [hempty]
  · rw [Nat.mul_add, ← List.drop_drop, List.take_append_drop]

/-- By induction on the receivers: from pixel `lo` on, the segments make up the rest of the payload. -/
theorem segments_of_tilesFrom {engines : List State} {total lo : Nat} {payload packet : List Byte}
    (htiles : tilesFrom total lo (engines.map (·.params)) = true) (hlen : payload.length = 3 * total)
    (hready : ∀ s ∈ engines,
      s.inv = true ∧ s.state = .hunting ∧ s.prevValid = false ∧ s.params.frame payload = packet) :
    ∃ after : List State,
      List.Forall₂ (fun s t => runInputs (offerAll packet) s = .next t ∧ t.state = .valid) engines after ∧
      after.flatMap segContents = payload.drop (3 * lo) := by
  induction engines generalizing lo with
  | nil =>
    obtain rfl : lo = total := by simpa [tilesFrom] using htiles
    exact ⟨[], .nil, by simp [← hlen]⟩
  | cons s engines ih =>
    obtain ⟨⟨hplace, htotal⟩, hrest⟩ :
        ((s.params.countPixels = 0 ∨ s.params.offsetPixels = lo) ∧ s.params.totalPixels = total) ∧
          tilesFrom total (lo + s.params.countPixels) (engines.map (·.params)) = true := by
      simpa [tilesFrom] using htiles
    obtain ⟨hinv, hs, hp, rfl⟩ := hready s List.mem_cons_self
    have hexp : payload.length = s.params.expLen := by rw [hlen, ← htotal, Params.expLen]
    obtain ⟨t, ht, hshow⟩ := runInputs_frame hinv hs hp hexp
    obtain ⟨after, hafter, hsegs⟩ := ih hrest fun u hu => hready u (List.mem_cons_of_mem _ hu)
    refine ⟨t :: after, .cons ⟨ht, hshow.state⟩ hafter, ?_⟩
    rw [List.flatMap_cons, hshow.segContents_eq hexp, hsegs, windowOf_append_drop hplace]

/-- Settles O57: a tiling begins at pixel 0. -/
theorem segmentsOfATilingMakeThePayload : Obligations.SegmentsOfATilingMakeThePayload :=
  fun _ _ _ _ htiles hlen hready => segments_of_tilesFrom htiles hlen hready

end Sys2Proof.Machine

/-! ## Proofs: the timers (44_timeouts.md)

The four TICK operations (R172 to R175), the composition of a clock cycle from its events (R176), the idle cycle (R177),
the tick at which a silent stream times out (R174), and the bound on a receive cycle (R179). -/

namespace Sys2Proof.Machine

/-! ### The TICK operations -/

/-- A TICK operation that runs is also the one that the tick's key selects (R92, R93). -/
theorem tickKey_selects_of_exec {i : Instr} {s t : State}
    (hi : i = .tickIdle ∨ i = .tickCount ∨ i = .tickRto ∨ i = .tickPto) (h : exec i s = .next t) (b : Byte) :
    decodeKey (tickKey s) b = .ok i ∧ exec i s = .next t :=
  ⟨tickOp_of_exec hi h ▸ decode_tickKey s b, h⟩

section
variable {s : State}

theorem timed_eq_false_iff : timed s = false ↔ s.state = .hunting ∨ s.state = .valid := by
  rw [← Bool.not_eq_true, timed_iff, not_and_or, not_ne_iff, not_ne_iff]

theorem bto_eq_false_of_lt (h : s.byteTimer.toNat + 1 < s.params.byteTimeout) : bto s = false := by
  rw [← Bool.not_eq_true, bto_iff]
  omega

/-- The two ways of the frame timer not to expire: it does not run, or it lacks more than this tick. -/
theorem fto_eq_false_iff : fto s = false ↔ frameRun s = false ∨ s.frameTimer.toNat + 1 < s.params.frameTimeout := by
  rw [← Bool.not_eq_true, fto_iff, not_and_or, Bool.not_eq_true, Nat.not_le]

end

/-- Settles O15: HUNTING and VALID are the two states with no timer. -/
theorem tickIdleChangesNothing : Obligations.TickIdleChangesNothing := by
  intro s b hs
  exact tickKey_selects_of_exec (by simp) (exec_tickIdle_next.mpr ⟨timed_eq_false_iff.mpr hs, rfl⟩) b

/-- Settles O16: the condition on the frame timer is `frame_run` (R38). -/
theorem tickCountCountsTheRunningTimers : Obligations.TickCountCountsTheRunningTimers := by
  intro s b hhunt hvalid hbyte hframe
  have hrun := exec_tickCount_next.mpr
    ⟨timed_iff.mpr ⟨hhunt, hvalid⟩, fto_eq_false_iff.mpr hframe, bto_eq_false_of_lt hbyte, rfl⟩
  simp only [frameRun_iff] at hrun
  exact tickKey_selects_of_exec (by simp) hrun b

/-- Settles O17: the next state written out is that of `raise ReadTimeout` (R195). -/
theorem tickRtoRaisesReadTimeout : Obligations.TickRtoRaisesReadTimeout := by
  intro s b hhunt hvalid hbyte hframe
  have htimed : timed s = true := timed_iff.mpr ⟨hhunt, hvalid⟩
  have hbto : bto s = true := bto_iff.mpr ⟨htimed, hbyte⟩
  exact tickKey_selects_of_exec (by simp)
    (exec_tickRto_next.mpr ⟨htimed, hbto, fto_eq_false_iff.mpr hframe, rfl⟩) b

/-- Settles O18: the next state written out is that of `raise PayloadTimeout` (R195); the clause of TICK_PTO does not read
the byte timer. -/
theorem tickPtoRaisesPayloadTimeout : Obligations.TickPtoRaisesPayloadTimeout := by
  intro s b hs hframe
  have hfto : fto s = true := fto_iff.mpr ⟨frameRun_iff.mpr hs, hframe⟩
  exact tickKey_selects_of_exec (by simp) (exec_tickPto_next.mpr ⟨timed_of_fto hfto, hfto, rfl⟩) b

/-! ### The composition of a clock cycle -/

/-- An event of a clock cycle, given by its condition, key and byte: absent it leaves the state, present it goes where the
operation its key selects goes. -/
theorem event_next_of_decode {c : Bool} {k : BitVec 10} {b : Byte} {i : Instr} {s t : State}
    (h : if c then decodeKey k b = .ok i ∧ exec i s = .next t else t = s) :
    (if c then dispatch k b s else .next s) = .next t := by
  cases c
  · rw [h]; rfl
  · obtain ⟨hkey, hrun⟩ := h
    exact dispatch_next.mpr ⟨i, hkey, hrun⟩

/-- Settles O27: each of the three events goes where its key says, and the cycle chains them. -/
theorem stepComposesTickByteSink : Obligations.StepComposesTickByteSink := by
  intro s s1 s2 s3 inp i1 i2 i3 hl hin e
  have hstep : step s = cycle inp e := step_of_sampled hl hin
  refine ⟨fun hr => ?_, fun hr htick hbyte hsink => ?_⟩
  · rw [hstep, cycle_of_rst hr]
    exact dispatch_of_decode (decode_resetKey e 0) e
  · have h1 : tickEvent inp e = .next s1 := event_next_of_decode htick
    have h2 : byteEvent e inp s1 = .next s2 := event_next_of_decode hbyte
    have h3 : sinkEvent e inp s2 = .next s3 := event_next_of_decode hsink
    rw [hstep, cycle_of_no_rst hr, h1, thenDo_of_next, h2, thenDo_of_next, h3]

/-- Settles O29: none of the three events acts, so the cycle leaves what the clock edge left. -/
theorem idleCycleOnlyClearsTheReport : Obligations.IdleCycleOnlyClearsTheReport := by
  intro s inp hl hin hr ht hbyte hsink
  have hnobyte : ¬ (inp.rxValid = true ∧ (edge s).state ≠ .valid) :=
    fun ⟨hrx, hv⟩ => hbyte.elim (by simp [hrx]) hv
  have hnosink : ¬ (inp.sinkDone = true ∧ (edge s).state = .valid) :=
    fun ⟨hdone, hv⟩ => hsink.elim (by simp [hdone]) (· hv)
  subst hin
  exact step_next.mpr ⟨hl, cycle_next.mpr (.inr ⟨hr, edge s, edge s, by simp [ht], by rw [if_neg hnobyte],
    by rw [if_neg hnosink]; rfl⟩)⟩

/-! ### The tick at which a silent stream times out

Where the frame timer does not run, a tick counts the byte timer, or is the one that brings it to its limit. -/

section
variable {s : State} (htimed : timed s = true) (hframe : frameRun s = false)
include htimed hframe

theorem exec_tickOp_of_wait (hlt : s.byteTimer.toNat + 1 < s.params.byteTimeout) :
    exec (tickOp s) s = .next { s with byteTimer := s.byteTimer + 1 } := by
  have hrun := exec_tickCount_next.mpr ⟨htimed, fto_eq_false_iff.mpr (.inl hframe), bto_eq_false_of_lt hlt, rfl⟩
  rw [tickOp_of_exec (by simp) hrun, hrun, hframe]
  rfl

theorem exec_tickOp_of_readTimeout (hle : s.params.byteTimeout ≤ s.byteTimer.toNat + 1) :
    exec (tickOp s) s = .next (raiseFailure .readTimeout s) := by
  have hrun := exec_tickRto_next.mpr
    ⟨htimed, bto_iff.mpr ⟨htimed, hle⟩, fto_eq_false_iff.mpr (.inl hframe), rfl⟩
  rw [tickOp_of_exec (by simp) hrun, hrun]

end

/-- What holds `n` ticks after `s`, while no byte came and nothing expired. -/
structure Waited (n : Nat) (s t : State) : Prop where
  params : t.params = s.params
  state : t.state = s.state
  pos : t.pos = s.pos
  seg : t.seg = s.seg
  byteTimer : t.byteTimer.toNat = s.byteTimer.toNat + n

theorem Waited.timed {n : Nat} {s t : State} (h : Waited n s t) (hs : timed s = true) : Machine.timed t = true := by
  simpa only [timed_iff, h.state] using hs

theorem Waited.frameRun {n : Nat} {s t : State} (h : Waited n s t) (hs : frameRun s = false) :
    Machine.frameRun t = false := by
  simpa only [Machine.frameRun, h.state, h.pos] using hs

/-- By induction on the ticks. -/
theorem runInputs_ticks_waited {n : Nat} {s : State} (hl : s.params.legal = true) (htimed : timed s = true)
    (hframe : frameRun s = false) (hlt : s.byteTimer.toNat + n < s.params.byteTimeout) :
    ∃ t, runInputs (List.replicate n PortInputs.tickOnly) s = .next t ∧ Waited n s t := by
  induction n generalizing s with
  | zero => exact ⟨s, rfl, rfl, rfl, rfl, rfl, rfl⟩
  | succ n ih =>
    obtain ⟨-, -, -, -, hmax, -⟩ := Params.legal_iff.mp hl
    have hsucc : (s.byteTimer + 1).toNat = s.byteTimer.toNat + 1 := half_succ (by omega)
    have hnext : s.byteTimer.toNat + 1 < s.params.byteTimeout := by omega
    have htick := exec_tickOp_of_wait (s := atEdge s) htimed hframe hnext
    obtain ⟨t, hrun, hpar, hstate, hpos, hseg, hcount⟩ := ih (s := { atEdge s with byteTimer := s.byteTimer + 1 })
      hl htimed hframe (show (s.byteTimer + 1).toNat + n < s.params.byteTimeout by omega)
    rw [List.replicate_succ, runInputs_of_cycle hl ((cycle_tickOnly _).trans htick)]
    refine ⟨t, hrun, hpar, hstate, hpos, hseg, hcount.trans ?_⟩
    show (s.byteTimer + 1).toNat + n = s.byteTimer.toNat + (n + 1)
    omega

/-- Settles O52: the invariants leave the byte timer at least one tick, and the ticks before the last only count. -/
theorem readTimeoutComesAtTheLastTick : Obligations.ReadTimeoutComesAtTheLastTick := by
  intro s n hinv htimed hframe
  obtain ⟨hl, -, htm, -⟩ := inv_iff.mp hinv
  refine ⟨fun hlt => ?_, fun hend => ?_⟩
  · obtain ⟨t, hrun, hwait⟩ := runInputs_ticks_waited hl htimed hframe hlt
    exact ⟨t, hrun, hwait.state, hwait.byteTimer⟩
  · obtain ⟨hbelow, -⟩ := timerInv_iff.mp htm
    obtain ⟨m, rfl⟩ : ∃ m, n = m + 1 := Nat.exists_eq_succ_of_ne_zero (by omega)
    obtain ⟨t, hrun, hwait⟩ := runInputs_ticks_waited (n := m) hl htimed hframe (by omega)
    have hlast : t.params.byteTimeout ≤ t.byteTimer.toNat + 1 := by rw [hwait.params, hwait.byteTimer]; omega
    have hraise := exec_tickOp_of_readTimeout (s := atEdge t) (hwait.timed htimed) (hwait.frameRun hframe) hlast
    rw [List.replicate_succ', runInputs_of_run hrun,
      runInputs_of_cycle (hwait.params ▸ hl) ((cycle_tickOnly _).trans hraise)]
    exact ⟨_, rfl, rfl, rfl, rfl, hwait.seg⟩

/-! ### The bound on a receive cycle

Every timed state has a number of ticks within which its receive cycle ends, whatever the bytes do: a tick uses up one of
them, and a byte adds none. -/

/-- Bound on the ticks of a packet after its length field: the wait for payload byte 0 and the frame, or the drain (R179). -/
def bodyTicks (p : Params) : Nat := max (p.byteTimeout + p.frameTimeout) (p.drainCap * p.byteTimeout)

/-- Bound on the ticks of a receive cycle after the byte it waits for, where the frame timer does not run (R179). -/
def ticksAfterByte (s : State) : Nat :=
  match s.state with
  | .synced => s.params.byteTimeout + bodyTicks s.params
  | .lenPending => bodyTicks s.params
  | .bodyPending => s.params.frameTimeout
  | .draining => (s.drainCnt.toNat - 1) * s.params.byteTimeout
  | .hunting | .valid | .checksumPending => 0

/-- Bound on the ticks left of a receive cycle: what the frame timer lacks where it runs, else what the byte timer lacks and
what may follow the awaited byte (R179). -/
def ticksLeft (s : State) : Nat :=
  if frameRun s then s.params.frameTimeout - s.frameTimer.toNat
  else if timed s then s.params.byteTimeout - s.byteTimer.toNat + ticksAfterByte s
  else 0

section
variable {s : State}

theorem ticksLeft_of_frameRun (h : frameRun s = true) : ticksLeft s = s.params.frameTimeout - s.frameTimer.toNat :=
  if_pos h

theorem ticksLeft_of_wait (h : frameRun s = false) (ht : timed s = true) :
    ticksLeft s = s.params.byteTimeout - s.byteTimer.toNat + ticksAfterByte s := by
  simp [ticksLeft, h, ht]

theorem ticksLeft_of_not_timed (h : timed s = false) : ticksLeft s = 0 := by
  have hf : frameRun s = false := Bool.eq_false_iff.mpr fun hf => by simp [timed_of_frameRun hf] at h
  simp [ticksLeft, h, hf]

/-- A running timer has not expired yet (R40), so a timed state has a tick left. -/
theorem ticksLeft_pos (hinv : s.inv = true) (ht : timed s = true) : 0 < ticksLeft s := by
  obtain ⟨-, -, htm, -⟩ := inv_iff.mp hinv
  obtain ⟨hbyte, hframe, -⟩ := timerInv_iff.mp htm
  cases hf : frameRun s
  · rw [ticksLeft_of_wait hf ht]; omega
  · rw [ticksLeft_of_frameRun hf]; omega

/-- A tick in a timed state ends the receive cycle or counts the timer on which the bound rests. -/
theorem ticksLeft_tick {t : State} (hinv : s.inv = true) (ht : timed s = true) (h : exec (tickOp s) s = .next t) :
    ticksLeft t + 1 ≤ ticksLeft s := by
  obtain ⟨hidle, -⟩ | ⟨-, -, rfl⟩ | ⟨-, -, -, rfl⟩ | ⟨-, -, -, hcount⟩ := tickOp_cases h
  · simp [hidle] at ht
  · rw [ticksLeft_of_not_timed rfl]; exact ticksLeft_pos hinv ht
  · rw [ticksLeft_of_not_timed rfl]; exact ticksLeft_pos hinv ht
  · obtain ⟨hl, -, htm, -⟩ := inv_iff.mp hinv
    obtain ⟨-, -, -, -, hbmax, -, hfmax, -⟩ := Params.legal_iff.mp hl
    obtain ⟨hbyte, hframe, -⟩ := timerInv_iff.mp htm
    cases hf : frameRun s
    · have hnext : ticksLeft t = s.params.byteTimeout - (s.byteTimer + 1).toNat + ticksAfterByte s := by
        rw [hcount]; exact ticksLeft_of_wait hf ht
      rw [hnext, ticksLeft_of_wait hf ht, half_succ (by omega)]
      omega
    · have hnext : ticksLeft t = s.params.frameTimeout - (s.frameTimer + 1).toNat := by
        rw [hcount, if_pos hf]; exact ticksLeft_of_frameRun hf
      rw [hnext, ticksLeft_of_frameRun hf, half_succ (by omega)]
      omega

end

/-- After a payload byte the frame timer runs, or the frame is accepted. -/
theorem ticksLeft_bodyCommon_le {s : State} (hpos : s.pos.toNat + 1 ≤ 65535) (csumEn last : Bool) (b : Byte) :
    ticksLeft (bodyCommon csumEn last b s) ≤
      s.params.frameTimeout - (if s.pos = 0 then 0 else s.frameTimer : Half).toNat := by
  unfold bodyCommon
  obtain ⟨-, he⟩ | ⟨-, -, he⟩ | ⟨-, -, he⟩ := bodyComplete_cases csumEn last (bodyCount b s) <;> rw [he]
  · have hnext : 1 ≤ (s.pos + 1).toNat := by rw [half_succ hpos]; omega
    exact (ticksLeft_of_frameRun (frameRun_iff.mpr (.inl ⟨rfl, hnext⟩))).le
  · exact (ticksLeft_of_frameRun (frameRun_iff.mpr (.inr rfl))).le
  · rw [ticksLeft_of_not_timed rfl]; exact Nat.zero_le _

/-- Payload byte 0 starts the frame timer, and the later ones leave it alone (R131). -/
theorem ticksLeft_bodySelected_le {w : Window} {csumEn last : Bool} {s : State} (hinv : s.inv = true)
    (hsel : bodySelected w csumEn last s = true) (b : Byte) :
    ticksLeft (bodyCommon csumEn last b s) ≤ ticksLeft s := by
  obtain ⟨hs, hpos, -⟩ := bodySelected_iff.mp hsel
  have hexp := expLen_le (inv_iff.mp hinv).1
  refine (ticksLeft_bodyCommon_le (by omega) csumEn last b).trans ?_
  by_cases hfirst : s.pos = 0
  · have hrun : frameRun s = false := by simp [frameRun, hs, hfirst]
    have hafter : ticksAfterByte s = s.params.frameTimeout := by simp [ticksAfterByte, hs]
    rw [ticksLeft_of_wait hrun (timed_iff.mpr (by simp [hs])), hafter]
    omega
  · have hne : s.pos.toNat ≠ 0 := fun h => hfirst (BitVec.eq_of_toNat_eq h)
    rw [if_neg hfirst, ticksLeft_of_frameRun (frameRun_iff.mpr (.inl ⟨hs, by omega⟩))]

/-- A byte that restarts the byte timer and leads to another wait adds no tick, if what may follow there is within what
could follow the byte. -/
theorem ticksLeft_restart_le {s t : State} (hs : timed s = true) (hfs : frameRun s = false) (ht : timed t = true)
    (hft : frameRun t = false) (hp : t.params = s.params) (hb : t.byteTimer = 0)
    (hle : s.params.byteTimeout + ticksAfterByte t ≤ ticksAfterByte s) : ticksLeft t ≤ ticksLeft s := by
  rw [ticksLeft_of_wait hfs hs, ticksLeft_of_wait hft ht, hp, hb]
  show s.params.byteTimeout - 0 + ticksAfterByte t ≤ _
  omega

/-- One wait of a drain and the waits that remain after it. -/
theorem add_sub_one_mul {n m : Nat} (h : 1 ≤ n) : m + (n - 1) * m = n * m := by
  rw [Nat.sub_one_mul, Nat.add_sub_cancel' (Nat.le_mul_of_pos_left m h)]

theorem ticksLeft_lenB1Drain_le {s : State} (hs : s.state = .lenPending) {b : Byte} (hd : doDrain s b = true) :
    ticksLeft { report .headerMismatch s with
      len := dlen s b, drainCnt := BitVec.ofNat 16 (drainN s b), xorAcc := s.xorAcc ^^^ b, byteTimer := 0,
      state := .draining } ≤ ticksLeft s := by
  obtain ⟨-, hpos⟩ : s.params.drainEn = true ∧ 0 < drainN s b := by simpa [doDrain] using hd
  have hcap : drainN s b ≤ s.params.drainCap := Nat.min_le_right _ _
  refine ticksLeft_restart_le (timed_iff.mpr (by simp [hs])) (by simp [frameRun, hs]) rfl rfl rfl rfl ?_
  calc s.params.byteTimeout + ((BitVec.ofNat 16 (drainN s b)).toNat - 1) * s.params.byteTimeout
      = drainN s b * s.params.byteTimeout := by rw [drainN_toNat, add_sub_one_mul hpos]
    _ ≤ s.params.drainCap * s.params.byteTimeout := Nat.mul_le_mul_right _ hcap
    _ ≤ bodyTicks s.params := Nat.le_max_right _ _
    _ = ticksAfterByte s := by simp [ticksAfterByte, hs]

theorem ticksLeft_drainByte_le {s : State} (hs : s.state = .draining) (hcnt : 1 < s.drainCnt.toNat) :
    ticksLeft { s with drainCnt := s.drainCnt - 1, byteTimer := 0 } ≤ ticksLeft s := by
  have htimed : timed s = true := timed_iff.mpr (by simp [hs])
  have hframe : frameRun s = false := by simp [frameRun, hs]
  have hsub : (s.drainCnt - 1).toNat = s.drainCnt.toNat - 1 := by bv_omega
  refine ticksLeft_restart_le htimed hframe htimed hframe rfl rfl (le_of_eq ?_)
  simp only [ticksAfterByte, hs, hsub]
  exact add_sub_one_mul (by omega)

/-- No operation adds ticks to a receive cycle. The one that begins a receive cycle needs a marker candidate (R112). -/
theorem ticksLeft_exec_le {i : Instr} {s t : State} (hinv : s.inv = true) (hprev : s.prevValid = false)
    (h : exec i s = .next t) : ticksLeft t ≤ ticksLeft s := by
  have hended : timed t = false → ticksLeft t ≤ ticksLeft s := fun ht => by
    rw [ticksLeft_of_not_timed ht]; exact Nat.zero_le _
  cases i with
  | reset => cases exec_reset_next.mp h; exact hended rfl
  | huntMiss b =>
    obtain ⟨hs, -, rfl⟩ := exec_huntMiss_next.mp h
    exact hended (timed_eq_false_iff.mpr (.inl hs))
  | huntSync b =>
    obtain ⟨-, hhit, -⟩ := exec_huntSync_next.mp h
    obtain ⟨hcand, -⟩ := hit_iff.mp hhit
    simp [hprev] at hcand
  | lenB0 b =>
    obtain ⟨hs, rfl⟩ := exec_lenB0_next.mp h
    refine ticksLeft_restart_le (timed_iff.mpr (by simp [hs])) (by simp [frameRun, hs]) rfl rfl rfl rfl ?_
    simp [ticksAfterByte, hs]
  | lenB1Ok b =>
    obtain ⟨hs, -, rfl⟩ := exec_lenB1Ok_next.mp h
    refine ticksLeft_restart_le (timed_iff.mpr (by simp [hs])) (by simp [frameRun, hs]) rfl rfl rfl rfl ?_
    simp [ticksAfterByte, hs, bodyTicks]
  | lenB1Bad b => obtain ⟨-, -, -, rfl⟩ := exec_lenB1Bad_next.mp h; exact hended rfl
  | lenB1Drain b => obtain ⟨hs, -, hd, rfl⟩ := exec_lenB1Drain_next.mp h; exact ticksLeft_lenB1Drain_le hs hd
  | drainByte b => obtain ⟨hs, hcnt, rfl⟩ := exec_drainByte_next.mp h; exact ticksLeft_drainByte_le hs hcnt
  | drainLast b => obtain ⟨-, -, rfl⟩ := exec_drainLast_next.mp h; exact hended rfl
  | bodySkip c l b => obtain ⟨hsel, rfl⟩ := exec_bodySkip_next.mp h; exact ticksLeft_bodySelected_le hinv hsel b
  | bodyTake c l b =>
    obtain ⟨hsel, rfl⟩ := exec_bodyTake_next.mp h
    obtain ⟨-, -, hw, -⟩ := bodySelected_iff.mp hsel
    exact ticksLeft_bodySelected_le (inv_stageWrite hinv (stageAddress_lt hw) b) (w := .take) hsel b
  | bodyDrop c l b => obtain ⟨hsel, rfl⟩ := exec_bodyDrop_next.mp h; exact ticksLeft_bodySelected_le hinv hsel b
  | csumOk b => obtain ⟨-, -, rfl⟩ := exec_csumOk_next.mp h; exact hended rfl
  | csumBad b => obtain ⟨-, -, rfl⟩ := exec_csumBad_next.mp h; exact hended rfl
  | tickIdle => obtain ⟨-, rfl⟩ := exec_tickIdle_next.mp h; exact le_rfl
  | tickCount =>
    obtain ⟨htimed, -⟩ := exec_tickCount_next.mp h
    have hop : tickOp s = .tickCount := tickOp_of_exec (by simp) h
    exact (Nat.le_succ _).trans (ticksLeft_tick hinv htimed (hop ▸ h))
  | tickRto => obtain ⟨-, -, -, rfl⟩ := exec_tickRto_next.mp h; exact hended rfl
  | tickPto => obtain ⟨-, -, rfl⟩ := exec_tickPto_next.mp h; exact hended rfl
  | sinkDone => obtain ⟨-, rfl⟩ := exec_sinkDone_next.mp h; exact hended rfl
  | sinkIgn => cases exec_sinkIgn_next.mp h; exact le_rfl

/-- A tick makes no marker candidate. -/
theorem prevValid_tick {s t : State} (hp : s.prevValid = false) (h : exec (tickOp s) s = .next t) :
    t.prevValid = false := by
  obtain ⟨-, rfl⟩ | ⟨-, -, rfl⟩ | ⟨-, -, -, rfl⟩ | ⟨-, -, -, rfl⟩ := tickOp_cases h
  · exact hp
  · rfl
  · rfl
  · exact hp

/-- In a timed state there is no marker candidate (R40). -/
theorem prevValid_of_timed {s : State} (hinv : s.inv = true) (ht : timed s = true) : s.prevValid = false := by
  obtain ⟨-, -, -, hf, -⟩ := inv_iff.mp hinv
  obtain ⟨hprev, -⟩ := flagInv_iff.mp hf
  exact hprev.resolve_left (timed_iff.mp ht).1

/-- The TICK event of a clock cycle, present or not, uses up its tick and makes no marker candidate. -/
theorem ticksLeft_tickEvent {c : Bool} {s t : State} (hinv : s.inv = true) (ht : timed s = true)
    (h : if c then exec (tickOp s) s = .next t else t = s) :
    t.inv = true ∧ t.prevValid = false ∧ ticksLeft t + (if c then 1 else 0) ≤ ticksLeft s := by
  have hprev := prevValid_of_timed hinv ht
  cases c
  · obtain rfl : t = s := h
    exact ⟨hinv, hprev, le_rfl⟩
  · exact ⟨inv_tickOp hinv h, prevValid_tick hprev h, ticksLeft_tick hinv ht h⟩

/-- A clock cycle that begins in a timed state uses up its tick, whatever byte it brings. -/
theorem ticksLeft_cycle {inp : PortInputs} {s t : State} (hinv : s.inv = true) (ht : timed s = true)
    (hr : inp.rst = false) (h : cycle inp s = .next t) :
    ticksLeft t + (if inp.tick then 1 else 0) ≤ ticksLeft s := by
  obtain ⟨hrst, -⟩ | ⟨-, s1, s2, htick, hbyte, hsink⟩ := cycle_next.mp h
  · simp [hr] at hrst
  obtain ⟨hinv1, hprev1, hleft1⟩ := ticksLeft_tickEvent hinv ht htick
  have hleft2 : ticksLeft s2 ≤ ticksLeft s1 := by
    split at hbyte
    · exact ticksLeft_exec_le hinv1 hprev1 hbyte
    · rw [hbyte]
  rw [if_neg fun hv => (timed_iff.mp ht).2 hv.2] at hsink
  subst hsink
  omega

/-- A run with as many ticks as are left ends the receive cycle on the way. By induction on the inputs. -/
theorem exists_prefix_not_timed {ins : List PortInputs} {s : State} (hinv : s.inv = true)
    (hrst : ∀ i ∈ ins, i.rst = false) (hleft : ticksLeft s ≤ tickCount ins) :
    ∃ pre t, pre <+: ins ∧ runInputs pre s = .next t ∧ timed t = false := by
  cases ht : timed s
  · exact ⟨[], s, List.nil_prefix, rfl, ht⟩
  induction ins generalizing s with
  | nil => exact absurd hleft (Nat.not_le.mpr (ticksLeft_pos hinv ht))
  | cons inp ins ih =>
    have hinv' := inv_atEdge hinv
    obtain ⟨u, hu⟩ := cycle_runs hinv' inp
    have hcycle := runInputs_of_cycle (inv_iff.mp hinv).1 hu
    have hused := ticksLeft_cycle (s := atEdge s) hinv' ht (hrst inp List.mem_cons_self) hu
    cases htu : timed u
    · exact ⟨[inp], u, by simp, hcycle [], htu⟩
    · have hrest : ticksLeft u ≤ tickCount ins := by
        have hle : ticksLeft (atEdge s) ≤ tickCount (inp :: ins) := hleft
        rw [tickCount, List.countP_cons, ← tickCount] at hle
        omega
      obtain ⟨pre, t, hpre, hrun, hend⟩ :=
        ih (inv_cycle hinv' hu) (fun i hi => hrst i (List.mem_cons_of_mem _ hi)) hrest htu
      exact ⟨inp :: pre, t, (List.prefix_cons_inj inp).mpr hpre, (hcycle pre).trans hrun, hend⟩

/-- The tick source's duty, counted: ticks come in any number (R230). -/
theorem Environment.TicksKeepComing.exists_le_tickCount {env : Environment} (h : env.TicksKeepComing) (k : Nat) :
    ∃ n, k ≤ tickCount (env.first n) := by
  induction k with
  | zero => exact ⟨0, Nat.zero_le _⟩
  | succ k ih =>
    obtain ⟨n, hn⟩ := ih
    obtain ⟨m, hm, htick⟩ := h n
    have hmono : tickCount (env.first n) ≤ tickCount (env.first m) :=
      ((List.range_sublist.mpr hm).map env).countP_le
    refine ⟨m + 1, ?_⟩
    rw [Environment.first_succ, tickCount, List.countP_append, ← tickCount, List.countP_singleton, if_pos htick]
    omega

/-- In SYNCED the bound of R179 covers what is left. -/
theorem ticksLeft_le_of_synced {s : State} (hs : s.state = .synced) :
    ticksLeft s ≤ 2 * s.params.byteTimeout + bodyTicks s.params := by
  have hafter : ticksAfterByte s = s.params.byteTimeout + bodyTicks s.params := by simp [ticksAfterByte, hs]
  rw [ticksLeft_of_wait (by simp [frameRun, hs]) (timed_iff.mpr (by simp [hs])), hafter]
  omega

/-- Settles O54: the bound covers the ticks left in SYNCED, and an environment whose ticks keep coming brings that many. -/
theorem receiveCycleIsBoundedInTicks : Obligations.ReceiveCycleIsBoundedInTicks := by
  refine ⟨fun s ins hinv hs hrst hbound => ?_, fun s env hinv hs hticks hrst => ?_⟩
  · obtain ⟨pre, t, hpre, hrun, hend⟩ := exists_prefix_not_timed hinv hrst ((ticksLeft_le_of_synced hs).trans hbound)
    exact ⟨pre, t, hpre, hrun, timed_eq_false_iff.mp hend⟩
  · obtain ⟨n, hn⟩ := hticks.exists_le_tickCount (ticksLeft s)
    have hquiet : ∀ i ∈ env.first n, i.rst = false := by
      intro i hi
      obtain ⟨k, -, rfl⟩ := Environment.mem_first.mp hi
      exact hrst k
    obtain ⟨pre, t, hpre, hrun, hend⟩ := exists_prefix_not_timed hinv hquiet hn
    exact ⟨pre.length, t, Environment.prefix_first hpre ▸ hrun, timed_eq_false_iff.mp hend⟩

end Sys2Proof.Machine

/-! ## Proofs: the exceptions (60_exceptions.md)

Which operations turn `err_valid` on, and with which code (R190, R195): RESET clears the output registers, the operations
that report nothing leave them as they were, and the five that report write the code of their failure kind. -/

namespace Sys2Proof.Machine

/-- The frame of the output registers: only RESET and the reporting operations write them (R32, R195, R220). -/
theorem exec_keeps_report {i : Instr} {s t : State} (h : exec i s = .next t) (hi : i ≠ .reset)
    (hr : reporting i = false) : t.errValid = s.errValid ∧ t.errCode = s.errCode := by
  cases i with
  | reset => exact absurd rfl hi
  | lenB1Bad b | lenB1Drain b | csumBad b | tickRto | tickPto => simp [reporting] at hr
  | sinkIgn => cases exec_sinkIgn_next.mp h; exact ⟨rfl, rfl⟩
  | bodySkip c l b | bodyTake c l b | bodyDrop c l b => obtain ⟨-, rfl⟩ := whenSelected_next.mp h; simp
  | _ => obtain ⟨-, rfl⟩ := whenSelected_next.mp h; exact ⟨rfl, rfl⟩

theorem reporting_of_errValid_rises {i : Instr} {s t : State} (h : exec i s = .next t) (hs : s.errValid = false)
    (ht : t.errValid = true) : reporting i = true := by
  by_contra hr
  have hquiet : t.errValid = false := by
    by_cases hi : i = .reset
    · subst hi
      cases exec_reset_next.mp h
      rfl
    · exact (exec_keeps_report h hi (Bool.eq_false_of_not_eq_true hr)).1.trans hs
  simp [hquiet] at ht

/-- Settles O25: `err_valid` rises only by a reporting operation, and each of those five writes its own code. -/
theorem reportsComeFromTheirOperations : Obligations.ReportsComeFromTheirOperations := by
  intro i s t h hs ht
  have hr := reporting_of_errValid_rises h hs ht
  cases i with
  | lenB1Bad b => obtain ⟨-, -, -, rfl⟩ := exec_lenB1Bad_next.mp h; exact .inl ⟨.inl ⟨b, rfl⟩, rfl⟩
  | lenB1Drain b => obtain ⟨-, -, -, rfl⟩ := exec_lenB1Drain_next.mp h; exact .inl ⟨.inr ⟨b, rfl⟩, rfl⟩
  | tickRto => obtain ⟨-, -, -, rfl⟩ := exec_tickRto_next.mp h; exact .inr (.inl ⟨rfl, rfl⟩)
  | tickPto => obtain ⟨-, -, rfl⟩ := exec_tickPto_next.mp h; exact .inr (.inr (.inl ⟨rfl, rfl⟩))
  | csumBad b => obtain ⟨-, -, rfl⟩ := exec_csumBad_next.mp h; exact .inr (.inr (.inr ⟨⟨b, rfl⟩, rfl⟩))
  | _ => simp [reporting] at hr

end Sys2Proof.Machine

/-! ## Proofs: reset and hazards (70_reset_and_hazards.md)

Reset (R220, R221), the wait in VALID for `sink_done` (R231), a sender of the other byte order (R234), and a healthy sender
(R229): a stream that is paced as the timeouts ask does what the same bytes do without ticks between them. -/

namespace Sys2Proof.Machine

/-! ### Reset -/

/-- Settles O1: RESET is `enter_hunting()` with the output registers cleared, and the key's other fields are ignored. -/
theorem resetClearsEveryCycleRegister : Obligations.ResetClearsEveryCycleRegister := by
  intro s b t
  exact ⟨decode_resetKey s b, exec_reset_next.mpr rfl, rfl, rfl, rfl⟩

/-- Settles O28: with `rst = 1` the step is RESET on the state that the clock edge leaves. -/
theorem resetDominatesTheInputs : Obligations.ResetDominatesTheInputs := by
  intro s inp hl hin hr
  subst hin
  exact step_next.mpr ⟨hl, cycle_next.mpr (.inl ⟨hr, rfl⟩)⟩

/-- Settles O36: the state after reset is written out, and its buffers list no byte. -/
theorem resetStateIsTheSpecs : Obligations.ResetStateIsTheSpecs := by
  intro p s
  have hbuffers : ∀ a, Memory.read? a s.stage = none ∧ Memory.read? a s.seg = none :=
    fun a => ⟨Memory.read?_nil a, Memory.read?_nil a⟩
  exact ⟨rfl, rfl, rfl, rfl, rfl, rfl, rfl, rfl, rfl, rfl, rfl, rfl, hbuffers, rfl, rfl, rfl⟩

/-! ### VALID waits for `sink_done` -/

/-- In VALID a tick is TICK_IDLE and no byte is consumed, so `sink_done` alone matters (R176 (d)). -/
theorem cycle_of_valid {inp : PortInputs} {s : State} (hr : inp.rst = false) (hs : s.state = .valid) :
    cycle inp s = .next (if inp.sinkDone then enterHunting s else s) := by
  have htick : if inp.tick then exec (tickOp s) s = .next s else s = s := by
    have hidle := exec_tickIdle_next.mpr ⟨timed_eq_false_iff.mpr (.inr hs), rfl⟩
    rw [tickOp_of_exec (by simp) hidle, hidle]
    split <;> rfl
  refine cycle_next.mpr (.inr ⟨hr, s, s, htick, by simp [hs], ?_⟩)
  cases hsink : inp.sinkDone
  · simp
  · simpa [hs] using exec_sinkDone_next.mpr ⟨hs, rfl⟩

/-- Without `sink_done` and reset the engine hangs in VALID with `seg` on show, by induction on the inputs (R231). -/
theorem runInputs_valid_hangs {ins : List PortInputs} {s : State} (hl : s.params.legal = true) (hs : s.state = .valid)
    (hquiet : ∀ i ∈ ins, i.rst = false ∧ i.sinkDone = false) :
    ∃ t, runInputs ins s = .next t ∧ t.params = s.params ∧ t.state = .valid ∧ t.seg = s.seg := by
  induction ins generalizing s with
  | nil => exact ⟨s, rfl, rfl, hs, rfl⟩
  | cons inp ins ih =>
    obtain ⟨hr, hsink⟩ := hquiet inp List.mem_cons_self
    have hcycle : cycle inp (atEdge s) = .next (atEdge s) := by simp [cycle_of_valid (s := atEdge s) hr hs, hsink]
    rw [runInputs_of_cycle hl hcycle]
    exact ih (s := atEdge s) hl hs fun i hi => hquiet i (List.mem_cons_of_mem _ hi)

/-- A clock cycle with `sink_done` or `rst` ends VALID in HUNTING, with `seg` as it was (R154, R221). -/
theorem runInputs_valid_ends {inp : PortInputs} {s : State} (hl : s.params.legal = true) (hs : s.state = .valid)
    (hend : inp.rst = true ∨ inp.sinkDone = true) :
    ∃ t, runInputs [inp] s = .next t ∧ t.state = .hunting ∧ t.seg = s.seg := by
  cases hr : inp.rst
  · have hsink : inp.sinkDone = true := hend.resolve_left (by simp [hr])
    have hcycle := cycle_of_valid (s := atEdge s) hr hs
    rw [if_pos hsink] at hcycle
    exact ⟨_, runInputs_of_cycle hl hcycle [], rfl, rfl⟩
  · exact ⟨_, runInputs_of_cycle hl (cycle_next.mpr (.inl ⟨hr, rfl⟩)) [], rfl, rfl⟩

/-- A run that begins in VALID begins with a rise of `frame_valid`, so a dutiful OutputSink answers it (R13, log 19). -/
theorem Environment.SinkAnswers.exists_sinkDone {env : Environment} {s : State} (h : env.SinkAnswers s)
    (hs : s.state = .valid) : ∃ m, (env m).sinkDone = true := by
  have hrise : env.FrameRises s 0 := ⟨⟨s, rfl, by simp [frameValid, hs]⟩, .inl rfl⟩
  obtain ⟨m, -, hsink⟩ := h 0 hrise
  exact ⟨m, hsink⟩

/-- Under OutputSink's duty VALID ends: the engine hangs there up to the first edge with `sink_done` or `rst`. -/
theorem Environment.SinkAnswers.valid_ends {env : Environment} {s : State} (h : env.SinkAnswers s)
    (hl : s.params.legal = true) (hs : s.state = .valid) :
    ∃ n t, runInputs (env.first n) s = .next t ∧ t.state = .hunting ∧ t.seg = s.seg := by
  obtain ⟨k, hk⟩ := h.exists_sinkDone hs
  have hex : ∃ m, (env m).rst = true ∨ (env m).sinkDone = true := ⟨k, .inr hk⟩
  have hquiet : ∀ i ∈ env.first (Nat.find hex), i.rst = false ∧ i.sinkDone = false := by
    intro i hi
    obtain ⟨j, hj, rfl⟩ := Environment.mem_first.mp hi
    simpa using Nat.find_min hex hj
  obtain ⟨u, hrun, hpar, hu, hseg⟩ := runInputs_valid_hangs hl hs hquiet
  obtain ⟨t, hlast, ht, hseg'⟩ := runInputs_valid_ends (hpar ▸ hl) hu (Nat.find_spec hex)
  refine ⟨Nat.find hex + 1, t, ?_, ht, hseg'.trans hseg⟩
  rw [Environment.first_succ, runInputs_of_run hrun, hlast]

/-- Settles O30: the four clauses are the cycle in VALID, its converse, a run of such cycles, and a run up to the answer. -/
theorem validWaitsForSinkDone : Obligations.ValidWaitsForSinkDone := by
  refine ⟨fun s inp hl hin hr hs => ?_, fun s t h hs ht => ?_, fun s ins hl hs hquiet => ?_,
    fun s env hl hs hanswers => hanswers.valid_ends hl hs⟩
  · rw [step_of_sampled hl hin]
    exact cycle_of_valid (s := edge s) hr hs
  · by_contra hnone
    obtain ⟨hr, hsink⟩ : (sampledInputs s).rst = false ∧ (sampledInputs s).sinkDone = false := by simpa using hnone
    have hcycle := (step_next.mp h).2
    rw [cycle_of_valid (s := edge s) hr hs, hsink] at hcycle
    cases hcycle
    exact ht hs
  · obtain ⟨t, hrun, -, ht, hseg⟩ := runInputs_valid_hangs hl hs hquiet
    exact ⟨t, hrun, ht, hseg, by simp [rxReady, ht]⟩

/-! ### A sender of the other byte order -/

/-- The parameters of a sender that differs in `LEN_BIG_ENDIAN` (R234). -/
def otherByteOrder (p : Params) : Params := { p with lenBigEndian := !p.lenBigEndian }

/-- A length written in one byte order and read in the other has its two bytes exchanged. -/
theorem assembleLen_otherByteOrder {p : Params} {n : Nat} {b0 b1 : Byte} (hn : n < 65536)
    (h : (otherByteOrder p).lenBytes n = [b0, b1]) :
    (assembleLen p.lenBigEndian b0 b1).toNat = 256 * (n % 256) + n / 256 := by
  rw [assembleLen_toNat]
  cases hbig : p.lenBigEndian
  · obtain ⟨rfl, rfl⟩ : BitVec.ofNat 8 (n / 256) = b0 ∧ BitVec.ofNat 8 n = b1 := by
      simpa [otherByteOrder, Params.lenBytes, hbig] using h
    simp only [BitVec.toNat_ofNat, Bool.false_eq_true, if_false]
    omega
  · obtain ⟨rfl, rfl⟩ : BitVec.ofNat 8 n = b0 ∧ BitVec.ofNat 8 (n / 256) = b1 := by
      simpa [otherByteOrder, Params.lenBytes, hbig] using h
    simp only [BitVec.toNat_ofNat, if_true]
    omega

/-- A wrong declared length is a HeaderMismatch, drained or not (R123, R124). -/
theorem runInputs_offer_headerMismatch {s : State} {b : Byte} (hl : s.params.legal = true) (hs : s.state = .lenPending)
    (hbad : lenOk s b = false) :
    ∃ t, runInputs [.offer b] s = .next t ∧ (t.state = .hunting ∨ t.state = .draining) ∧ t.errValid = true ∧
      t.errCode = 0 := by
  have hv : s.state ≠ .valid := by simp [hs]
  cases hd : doDrain s b
  · have hop : byteOp s b = .lenB1Bad b := by simp [byteOp, hs, hbad, hd]
    have hrun := (exec_lenB1Bad_next (s := atEdge s)).mpr ⟨hs, hbad, hd, rfl⟩
    exact ⟨_, runInputs_offer hl hv (hop ▸ hrun), .inl rfl, rfl, rfl⟩
  · have hop : byteOp s b = .lenB1Drain b := by simp [byteOp, hs, hbad, hd]
    have hrun := (exec_lenB1Drain_next (s := atEdge s)).mpr ⟨hs, hbad, hd, rfl⟩
    exact ⟨_, runInputs_offer hl hv (hop ▸ hrun), .inr rfl, rfl, rfl⟩

/-- Settles O60: the exchanged bytes declare the expected length exactly where they are equal. -/
theorem otherByteOrderIsAHeaderMismatch : Obligations.OtherByteOrderIsAHeaderMismatch := by
  intro s hinv hs hp skewed
  obtain ⟨t, hmark, ht, hpar, -⟩ := runInputs_mark hinv hs hp
  have hl := (inv_iff.mp hinv).1
  have hexp : s.params.expLen < 65536 := Nat.lt_succ_of_le (expLen_le hl)
  obtain ⟨b0, b1, hlen⟩ := lenBytes_two skewed s.params.expLen
  have hread := assembleLen_otherByteOrder hexp hlen
  rw [← hpar] at hl hread
  obtain ⟨u, hfirst, hu, hupar, hub⟩ : ∃ u, runInputs [.offer b0] t = .next u ∧ u.state = .lenPending ∧
      u.params = t.params ∧ u.lenB0 = b0 := ⟨_, runInputs_offer_lenB0 hl ht, rfl, rfl, rfl⟩
  have hok : lenOk u b1 = true ↔ s.params.expLen / 256 = s.params.expLen % 256 := by
    rw [lenOk_iff, dlen, hupar, hub, hread, ← hpar]
    omega
  have hrun : runInputs (offerAll (s.params.mark ++ skewed.lenBytes s.params.expLen)) s = runInputs [.offer b1] u := by
    rw [hlen, offerAll_append, runInputs_of_run hmark]
    exact runInputs_of_run hfirst [.offer b1]
  rw [← hupar] at hl
  rw [hrun]
  split
  next heq => exact ⟨_, runInputs_offer_lenB1Ok hl hu (hok.mpr heq), rfl, rfl⟩
  next hne => exact runInputs_offer_headerMismatch hl hu (Bool.eq_false_iff.mpr (mt hok.mp hne))

/-! ### A paced stream

Two states that differ in what ticks write alone do the same with a byte. So a stream whose ticks never bring a timer to its
limit ends as the same bytes do without ticks. -/

/-- `s` without what a tick before an expiry writes: the timers, the output registers and the clock. -/
def State.untimed (s : State) : State :=
  { s with byteTimer := 0, frameTimer := 0, errValid := false, errCode := 0, clock := 0 }

/-- What does not read what ticks write is equal in two states that differ in that alone. -/
theorem eq_of_untimed {α : Type} {f : State → α} (hf : ∀ s, f s.untimed = f s) {s s' : State}
    (h : s'.untimed = s.untimed) : f s' = f s := by
  rw [← hf s', h, hf]

/-- A result with the next state, where there is one, without what ticks write. -/
def Result.untimed (o : Result) : Result := thenDo o fun t => .next t.untimed

theorem whenSelected_untimed {c c' : Bool} {t t' : State} (hc : c' = c) (ht : t'.untimed = t.untimed) :
    Result.untimed (whenSelected c' t') = Result.untimed (whenSelected c t) := by
  subst hc
  cases c'
  · rfl
  · exact congrArg Host.Outcome.next ht

theorem bodyCommon_untimed (csumEn last : Bool) (b : Byte) (s : State) :
    (bodyCommon csumEn last b s.untimed).untimed = (bodyCommon csumEn last b s).untimed := by
  cases last <;> cases csumEn <;> rfl

/-- A BYTE operation reads nothing that ticks write. -/
theorem exec_untimed {i : Instr} {b : Byte} (hi : i.operand = some b) (s : State) :
    Result.untimed (exec i s.untimed) = Result.untimed (exec i s) := by
  cases i with
  | reset | tickIdle | tickCount | tickRto | tickPto | sinkDone | sinkIgn => cases hi
  | bodySkip c l b | bodyDrop c l b => exact whenSelected_untimed rfl (bodyCommon_untimed c l b s)
  | bodyTake c l b =>
    exact whenSelected_untimed rfl (bodyCommon_untimed c l b (stageWrite (stageAddress s) b s))
  | _ => exact whenSelected_untimed rfl rfl

theorem byteOp_operand {s : State} (hv : s.state ≠ .valid) (b : Byte) : (byteOp s b).operand = some b := by
  unfold byteOp
  cases hs : s.state with
  | valid => exact absurd hs hv
  | hunting => cases hit s b <;> rfl
  | synced => rfl
  | lenPending => cases lenOk s b <;> cases doDrain s b <;> rfl
  | bodyPending => cases win s <;> rfl
  | checksumPending => cases ckOk s b <;> rfl
  | draining => cases lastDrain s <;> rfl

/-- A byte leads two states that differ in what ticks write alone to two such states. -/
theorem cycle_offer_untimed {b : Byte} {s s' t : State} (h : s'.untimed = s.untimed)
    (ht : cycle (.offer b) s = .next t) : ∃ t', cycle (.offer b) s' = .next t' ∧ t'.untimed = t.untimed := by
  have hstate : s'.state = s.state := eq_of_untimed (f := State.state) (fun _ => rfl) h
  by_cases hv : s.state = .valid
  · rw [cycle_of_valid rfl hv] at ht
    cases ht
    exact ⟨s', cycle_of_valid rfl (hstate.trans hv), h⟩
  · have hv' : s'.state ≠ .valid := hstate ▸ hv
    have hop : byteOp s' b = byteOp s b := eq_of_untimed (f := (byteOp · b)) (fun _ => rfl) h
    rw [cycle_offer hv] at ht
    have hsame : Result.untimed (exec (byteOp s b) s') = .next t.untimed := by
      rw [← exec_untimed (byteOp_operand hv b), h, exec_untimed (byteOp_operand hv b), ht]
      rfl
    obtain ⟨t', ht', heq⟩ := thenDo_next.mp hsame
    exact ⟨t', by rw [cycle_offer hv', hop, ht'], Host.Outcome.next.inj heq⟩

/-- A tick that brings no timer to its limit counts the running ones, and nothing else. -/
theorem tick_untimed {s : State} (hl : s.params.legal = true)
    (hbyte : timed s = true → s.byteTimer.toNat + 1 < s.params.byteTimeout)
    (hframe : frameRun s = true → s.frameTimer.toNat + 1 < s.params.frameTimeout) :
    ∃ t, exec (tickOp s) s = .next t ∧ t.untimed = s.untimed ∧ t.byteTimer.toNat ≤ s.byteTimer.toNat + 1 ∧
      t.frameTimer.toNat = s.frameTimer.toNat + if frameRun s then 1 else 0 := by
  obtain ⟨-, -, -, -, hbmax, -, hfmax, -⟩ := Params.legal_iff.mp hl
  obtain ⟨t, ht⟩ := tick_runs s
  refine ⟨t, ht, ?_⟩
  obtain ⟨hidle, rfl⟩ | ⟨-, hfto, -⟩ | ⟨-, -, hbto, -⟩ | ⟨htimed, -, -, rfl⟩ := tickOp_cases ht
  · have hrun : frameRun t = false := Bool.eq_false_iff.mpr fun hrun => by simp [timed_of_frameRun hrun] at hidle
    simp [hrun]
  · obtain ⟨hrun, hle⟩ := fto_iff.mp hfto
    have := hframe hrun
    omega
  · obtain ⟨htimed, hle⟩ := bto_iff.mp hbto
    have := hbyte htimed
    omega
  · have hlt := hbyte htimed
    refine ⟨rfl, (half_succ (x := s.byteTimer) (by omega)).le, ?_⟩
    cases hrun : frameRun s
    · rfl
    · have hlt' := hframe hrun
      exact half_succ (x := s.frameTimer) (by omega)

/-- By induction on the ticks. -/
theorem runInputs_ticks_untimed {n : Nat} {s : State} (hl : s.params.legal = true)
    (hbyte : timed s = true → s.byteTimer.toNat + n < s.params.byteTimeout)
    (hframe : frameRun s = true → s.frameTimer.toNat + n < s.params.frameTimeout) :
    ∃ t, runInputs (List.replicate n .tickOnly) s = .next t ∧ t.untimed = s.untimed ∧
      t.frameTimer.toNat = s.frameTimer.toNat + if frameRun s then n else 0 := by
  induction n generalizing s with
  | zero => exact ⟨s, rfl, rfl, by simp⟩
  | succ n ih =>
    obtain ⟨u, hu, hsame, hb, hf⟩ := tick_untimed (s := atEdge s) hl
      (fun h => by have := hbyte h; change s.byteTimer.toNat + 1 < s.params.byteTimeout; omega)
      (fun h => by have := hframe h; change s.frameTimer.toNat + 1 < s.params.frameTimeout; omega)
    change u.byteTimer.toNat ≤ s.byteTimer.toNat + 1 at hb
    change u.frameTimer.toNat = s.frameTimer.toNat + (if frameRun s then 1 else 0) at hf
    have hpar : u.params = s.params := eq_of_untimed (f := State.params) (fun _ => rfl) hsame
    have htimed : timed u = timed s := eq_of_untimed (f := timed) (fun _ => rfl) hsame
    have hrun : frameRun u = frameRun s := eq_of_untimed (f := frameRun) (fun _ => rfl) hsame
    obtain ⟨t, ht, hsame', hf'⟩ := ih (s := u) (hpar ▸ hl)
      (fun h => by have := hbyte (htimed ▸ h); rw [hpar]; omega)
      (fun h => by have := hframe (hrun ▸ h); rw [hpar, hf, if_pos (hrun ▸ h)]; omega)
    refine ⟨t, ?_, hsame'.trans hsame, ?_⟩
    · rw [List.replicate_succ, runInputs_of_cycle hl ((cycle_tickOnly _).trans hu), ht]
    · rw [hf', hf, hrun]
      split <;> omega

/-! ### Pacing as the timeouts ask -/

/-- At least so many bytes are consumed before the byte timer runs (R27): in a hunt the rest of the marker. -/
def bytesToSync (s : State) : Nat :=
  match s.state with
  | .hunting => if s.prevValid then 1 else 2
  | _ => 0

/-- At least so many bytes are consumed before the frame timer runs (R28): the rest of the header, and payload byte 0. -/
def bytesToFrame (s : State) : Nat :=
  match s.state with
  | .hunting => bytesToSync s + 3
  | .synced => 3
  | .lenPending => 2
  | .draining => 1
  | .bodyPending => if s.pos = 0 then 1 else 0
  | .checksumPending | .valid => 0

theorem bytesToSync_of_timed {s : State} (h : timed s = true) : bytesToSync s = 0 := by
  unfold bytesToSync
  split
  next hs => exact absurd hs (timed_iff.mp h).1
  next => rfl

theorem bytesToFrame_of_frameRun {s : State} (h : frameRun s = true) : bytesToFrame s = 0 := by
  unfold bytesToFrame
  obtain ⟨hs, hpos⟩ | hs := frameRun_iff.mp h
  · have hne : s.pos ≠ 0 := fun h0 => by simp [h0] at hpos
    simp only [hs, if_neg hne]
  · simp [hs]

theorem bytesToSync_le (s : State) : bytesToSync s ≤ 2 := by
  unfold bytesToSync
  split
  · split <;> omega
  · omega

theorem bytesToFrame_le (s : State) : bytesToFrame s ≤ 5 := by
  have hle := bytesToSync_le s
  unfold bytesToFrame
  cases s.state with
  | bodyPending => dsimp only; split <;> omega
  | _ => dsimp only; omega

/-- What a byte does for the timers: the byte timer is 0, the frame timer has not grown, and each bound on the bytes to come
before a timer runs has fallen by at most the byte itself. -/
structure AfterByte (s t : State) : Prop where
  byteTimer : t.byteTimer = 0
  frameTimer : t.frameTimer.toNat ≤ s.frameTimer.toNat
  toSync : bytesToSync s ≤ bytesToSync t + 1
  toFrame : bytesToFrame s ≤ bytesToFrame t + 1

/-- In HUNTING and VALID the byte timer does not run, and is 0 there (R40). -/
theorem inv_byteTimer {s : State} (h : s.inv = true) (ht : timed s = false) : s.byteTimer = 0 := by
  obtain ⟨-, -, htm, -⟩ := inv_iff.mp h
  obtain ⟨-, -, hz, -⟩ := timerInv_iff.mp htm
  exact hz.resolve_left (by simp [ht])

/-- Back in a fresh hunt every timer is 0 and a whole header is still to come. -/
theorem afterByte_fresh {s t : State} (ht : t.state = .hunting) (hp : t.prevValid = false) (hb : t.byteTimer = 0)
    (hf : t.frameTimer = 0) : AfterByte s t := by
  have hsync : bytesToSync t = 2 := by simp [bytesToSync, ht, hp]
  have hframe : bytesToFrame t = 5 := by simp [bytesToFrame, ht, hsync]
  have hsync' := bytesToSync_le s
  have hframe' := bytesToFrame_le s
  exact ⟨hb, by simp [hf], by omega, by omega⟩

theorem afterByte_bodyCommon {s : State} (hs : s.state = .bodyPending) (csumEn last : Bool) (b : Byte) (u : State)
    (hf : u.frameTimer = s.frameTimer) : AfterByte s (bodyCommon csumEn last b u) := by
  have hsync : bytesToSync s = 0 := by simp [bytesToSync, hs]
  have hframe : bytesToFrame s ≤ 1 := by
    simp only [bytesToFrame, hs]
    split <;> omega
  have hcount : (bodyCount b u).frameTimer.toNat ≤ s.frameTimer.toNat := by
    rw [bodyCount_frameTimer, ← hf]
    split
    · exact Nat.zero_le _
    · exact le_rfl
  obtain ⟨-, he⟩ | ⟨-, -, he⟩ | ⟨-, -, he⟩ := bodyComplete_cases csumEn last (bodyCount b u) <;>
    rw [bodyCommon, he]
  · exact ⟨rfl, hcount, by omega, by omega⟩
  · exact ⟨rfl, hcount, by omega, by omega⟩
  · exact ⟨rfl, Nat.zero_le _, by omega, by omega⟩

theorem exec_afterByte {i : Instr} {b : Byte} {s t : State} (hinv : s.inv = true) (hi : i.operand = some b)
    (h : exec i s = .next t) : AfterByte s t := by
  cases i with
  | reset | tickIdle | tickCount | tickRto | tickPto | sinkDone | sinkIgn => cases hi
  | huntMiss b =>
    obtain ⟨hs, -, rfl⟩ := exec_huntMiss_next.mp h
    have hle := bytesToSync_le s
    have hzero : s.byteTimer = 0 := inv_byteTimer hinv (timed_eq_false_iff.mpr (.inl hs))
    exact ⟨hzero, le_rfl, by simpa [bytesToSync, hs] using hle, by simpa [bytesToFrame, bytesToSync, hs] using hle⟩
  | huntSync b =>
    obtain ⟨hs, hhit, rfl⟩ := exec_huntSync_next.mp h
    obtain ⟨hcand, -⟩ := hit_iff.mp hhit
    exact ⟨rfl, le_rfl, by simp [bytesToSync, hs, hcand], by simp [bytesToFrame, bytesToSync, hs, hcand]⟩
  | lenB0 b =>
    obtain ⟨hs, rfl⟩ := exec_lenB0_next.mp h
    exact ⟨rfl, le_rfl, by simp [bytesToSync, hs], by simp [bytesToFrame, hs]⟩
  | lenB1Ok b =>
    obtain ⟨hs, -, rfl⟩ := exec_lenB1Ok_next.mp h
    exact ⟨rfl, le_rfl, by simp [bytesToSync, hs], by simp [bytesToFrame, hs]⟩
  | lenB1Drain b =>
    obtain ⟨hs, -, -, rfl⟩ := exec_lenB1Drain_next.mp h
    exact ⟨rfl, le_rfl, by simp [bytesToSync, hs], by simp [bytesToFrame, hs]⟩
  | drainByte b =>
    obtain ⟨hs, -, rfl⟩ := exec_drainByte_next.mp h
    exact ⟨rfl, le_rfl, by simp [bytesToSync, hs], by simp [bytesToFrame, hs]⟩
  | lenB1Bad b => obtain ⟨-, -, -, rfl⟩ := exec_lenB1Bad_next.mp h; exact afterByte_fresh rfl rfl rfl rfl
  | drainLast b => obtain ⟨-, -, rfl⟩ := exec_drainLast_next.mp h; exact afterByte_fresh rfl rfl rfl rfl
  | csumBad b => obtain ⟨-, -, rfl⟩ := exec_csumBad_next.mp h; exact afterByte_fresh rfl rfl rfl rfl
  | bodySkip c l b | bodyDrop c l b =>
    obtain ⟨hsel, rfl⟩ := whenSelected_next.mp h
    exact afterByte_bodyCommon (bodySelected_iff.mp hsel).1 c l b s rfl
  | bodyTake c l b =>
    obtain ⟨hsel, rfl⟩ := exec_bodyTake_next.mp h
    exact afterByte_bodyCommon (bodySelected_iff.mp hsel).1 c l b _ rfl
  | csumOk b =>
    obtain ⟨hs, -, rfl⟩ := exec_csumOk_next.mp h
    exact ⟨rfl, Nat.zero_le _, by simp [bytesToSync, hs], by simp [bytesToFrame, hs]⟩

theorem cycle_offer_afterByte {b : Byte} {s t : State} (hinv : s.inv = true) (h : cycle (.offer b) s = .next t) :
    AfterByte s t := by
  by_cases hv : s.state = .valid
  · rw [cycle_of_valid rfl hv] at h
    cases h
    exact ⟨inv_byteTimer hinv (timed_eq_false_iff.mpr (.inr hv)), le_rfl, Nat.le_succ _, Nat.le_succ _⟩
  · exact exec_afterByte hinv (byteOp_operand hv b) (cycle_offer hv b ▸ h)

/-- The coming bytes, with so many ticks before each, are as early as the timeouts ask (R229): every gap in which the byte
timer may run is shorter than `BYTE_TIMEOUT`, and the gaps in which the frame timer may run come within `FRAME_TIMEOUT`. -/
structure OnTime (gaps : List Nat) (s : State) : Prop where
  byteTimer : s.byteTimer = 0
  byteGaps : ∀ g ∈ gaps.drop (bytesToSync s), g < s.params.byteTimeout
  frameGaps : s.frameTimer.toNat + (gaps.drop (bytesToFrame s)).sum < s.params.frameTimeout

/-- The gaps that a bound leaves after a byte were left before it, if the bound has fallen by at most that byte. -/
theorem drop_sublist_of_le_succ {m n g : Nat} {gaps : List Nat} (h : m ≤ n + 1) :
    (gaps.drop n).Sublist ((g :: gaps).drop m) :=
  List.drop_sublist_drop_left (g :: gaps) h

/-- No timer expires in the gap before the next byte. -/
theorem OnTime.gap {g : Nat} {gaps : List Nat} {s : State} (h : OnTime (g :: gaps) s) (hl : s.params.legal = true) :
    ∃ u, runInputs (List.replicate g .tickOnly) s = .next u ∧ u.untimed = s.untimed ∧
      u.frameTimer.toNat = s.frameTimer.toNat + if frameRun s then g else 0 := by
  obtain ⟨hzero, hbyte, hframe⟩ := h
  refine runInputs_ticks_untimed hl (fun ht => ?_) (fun hr => ?_)
  · rw [bytesToSync_of_timed ht] at hbyte
    simpa [hzero] using hbyte g List.mem_cons_self
  · rw [bytesToFrame_of_frameRun hr, List.drop_zero, List.sum_cons] at hframe
    omega

/-- After the gap and its byte the other bytes are still on time. -/
theorem OnTime.next {g : Nat} {gaps : List Nat} {s u t : State} (h : OnTime (g :: gaps) s)
    (hsame : u.untimed = s.untimed) (hgap : u.frameTimer.toNat = s.frameTimer.toNat + if frameRun s then g else 0)
    (hpar : t.params = u.params) (hafter : AfterByte u t) : OnTime gaps t := by
  obtain ⟨-, hbyte, hframe⟩ := h
  obtain ⟨hzero, hle, hsync, hbody⟩ := hafter
  have hsync' : bytesToSync u = bytesToSync s := eq_of_untimed (f := bytesToSync) (fun _ => rfl) hsame
  have hbody' : bytesToFrame u = bytesToFrame s := eq_of_untimed (f := bytesToFrame) (fun _ => rfl) hsame
  have hpar' : t.params = s.params := hpar.trans (eq_of_untimed (f := State.params) (fun _ => rfl) hsame)
  rw [hsync'] at hsync
  rw [hbody'] at hbody
  refine ⟨hzero, fun x hx => hpar' ▸ hbyte x ((drop_sublist_of_le_succ hsync).mem hx), ?_⟩
  rw [hpar']
  cases hrun : frameRun s
  · have hsum := (drop_sublist_of_le_succ (g := g) (gaps := gaps) hbody).sum_le_sum (by simp)
    simp only [hrun, Bool.false_eq_true, if_false] at hgap
    omega
  · have hsum := (List.drop_sublist (bytesToFrame t) gaps).sum_le_sum (by simp)
    rw [bytesToFrame_of_frameRun hrun, List.drop_zero, List.sum_cons] at hframe
    simp only [hrun, if_true] at hgap
    omega

/-- A stream that is on time ends as the same bytes do without ticks, by induction on the bytes. -/
theorem runInputs_paced {gaps : List Nat} {bytes : List Byte} {s s' t : State} (hinv : s'.inv = true)
    (htime : OnTime gaps s') (hlen : gaps.length = bytes.length) (hsame : s'.untimed = s.untimed)
    (hrun : runInputs (offerAll bytes) s = .next t) :
    ∃ t', runInputs (paced gaps bytes) s' = .next t' ∧ t'.untimed = t.untimed := by
  induction bytes generalizing gaps s s' with
  | nil =>
    obtain rfl := List.length_eq_zero_iff.mp hlen
    cases hrun
    exact ⟨s', rfl, hsame⟩
  | cons b bytes ih =>
    obtain ⟨g, gaps, rfl⟩ := List.exists_cons_of_length_eq_add_one hlen
    have hpar : s'.params = s.params := eq_of_untimed (f := State.params) (fun _ => rfl) hsame
    have hl := (inv_iff.mp hinv).1
    obtain ⟨v, hv, hrest⟩ := thenDo_next.mp (runInputs_cons (hpar ▸ hl) (.offer b) (offerAll bytes) ▸ hrun)
    obtain ⟨u, hticks, hsame', hgap⟩ := htime.gap hl
    have hinvu := inv_runInputs hinv hticks
    have hinvu' := inv_atEdge hinvu
    have hedge : (atEdge u).untimed = (atEdge s).untimed := hsame'.trans hsame
    obtain ⟨v', hv', hsamev⟩ := cycle_offer_untimed hedge hv
    obtain ⟨hparv, -⟩ := cycle_keeps_own hv'
    have htime' : OnTime gaps v' := htime.next (u := atEdge u) hsame' hgap hparv (cycle_offer_afterByte hinvu' hv')
    obtain ⟨t', hend, hsamet⟩ := ih (inv_cycle hinvu' hv') htime' (Nat.succ.inj hlen) hsamev hrest
    refine ⟨t', ?_, hsamet⟩
    rw [paced_cons, runInputs_of_run hticks, runInputs_of_cycle (inv_iff.mp hinvu).1 hv', hend]

/-- VALID is never entered or kept with a report (R32), over a run. -/
theorem errValid_of_runInputs_valid {ins : List PortInputs} {s t : State} (hs : s.state = .valid → s.errValid = false)
    (h : runInputs ins s = .next t) (ht : t.state = .valid) : t.errValid = false := by
  induction ins generalizing s with
  | nil => cases h; exact hs ht
  | cons inp ins ih =>
    obtain ⟨u, hu, hrest⟩ := thenDo_next.mp h
    obtain ⟨-, hreport, -⟩ := reportsArePulses _ _ hu
    exact ih (fun hv => Bool.eq_false_iff.mpr fun he => by simpa [hv] using hreport he) hrest

/-- In a fresh hunt all of the marker and the header is still to come. -/
theorem onTime_of_fresh {gaps : List Nat} {s : State} (hinv : s.inv = true) (hs : s.state = .hunting)
    (hp : s.prevValid = false) (hbyte : ∀ g ∈ gaps.drop 2, g < s.params.byteTimeout)
    (hframe : (gaps.drop 5).sum < s.params.frameTimeout) : OnTime gaps s := by
  have hsync : bytesToSync s = 2 := by simp [bytesToSync, hs, hp]
  have hbody : bytesToFrame s = 5 := by simp [bytesToFrame, hs, hsync]
  have hzero : s.frameTimer = 0 := inv_frameTimer hinv (by simp [frameRun, hs])
  exact ⟨inv_byteTimer hinv (timed_eq_false_iff.mpr (.inl hs)), hsync ▸ hbyte, by simpa [hbody, hzero] using hframe⟩

/-- Settles O55: the packet is on time, so it ends as it does without ticks, in VALID with the window on show. -/
theorem healthySenderIsAccepted : Obligations.HealthySenderIsAccepted := by
  intro s payload gaps hinv hs hp hlen hgaps hbyte hframe
  obtain ⟨t, ht, hshow⟩ := runInputs_frame hinv hs hp hlen
  obtain ⟨t', ht', hsame⟩ := runInputs_paced hinv (onTime_of_fresh hinv hs hp hbyte hframe) hgaps rfl ht
  have hvalid : t'.state = .valid := (eq_of_untimed (f := State.state) (fun _ => rfl) hsame).trans hshow.state
  have hseg : segContents t' = segContents t := eq_of_untimed (f := segContents) (fun _ => rfl) hsame
  exact ⟨t', ht', hvalid, errValid_of_runInputs_valid (by simp [hs]) ht' hvalid,
    hseg.trans (hshow.segContents_eq hlen)⟩

end Sys2Proof.Machine
